-- ==== Sys2Proof/Word.lean ====
section
/-! DEFINITION. The words of the sample transform unit: bytes of the host's streams, 16-bit samples, 32-bit
operand and result words, 40-bit requests and responses (spec/00_scope.md R4, R5; spec/30_encoding.md R37, R41). -/

namespace Sys2Proof

/-- One byte of a stream (R25). -/
abbrev Byte := BitVec 8

/-- A 16-bit field of `DATA` or `RDATA`, two's complement where it is a sample (R4 `W = 16`, R39). -/
abbrev Sample := BitVec 16

/-- The operand word `DATA` of a request or the result word `RDATA` of a response; also a coded sample
(R4 `CW = 32`, R37, R40, R41). -/
abbrev Data := BitVec 32

/-- The operation code `OP` (R37, R38). -/
abbrev OpCode := BitVec 8

/-- The 4-bit mode tag `MODE` of a request (R38). -/
abbrev ModeTag := BitVec 4

/-- The `STATUS` field of a response (R41). -/
abbrev Status := BitVec 8

/-- A request word `req` of format `REQ40` (R37). -/
abbrev Request := BitVec 40

/-- A response word `rsp` of format `RSP40` (R41). -/
abbrev Response := BitVec 40

end Sys2Proof
end

