-- ==== Sys2Proof/Syntax.lean ====
section
/-! DEFINITION. The instruction type: one constructor for each of the 19 rows of spec/opcode_table.json (R42 to
R45). Operand fields are the encoding's own fields, as words. An error row whose encoding leaves bits of `OP` free
carries the whole `OP`, which Sys2Proof/WellFormed.lean checks against the row's match and mask. -/

namespace Sys2Proof

/-- The rows of spec/opcode_table.json (R42 to R45). -/
inductive OpRow
  | sell
  | selr
  | mid
  | side
  | pack32
  | unpack32
  | invalidMode04_07
  | invalidMode08_0F
  | illegal11_11
  | illegal12_13
  | illegal14_17
  | illegal18_1F
  | illegal21_21
  | illegal22_23
  | illegal24_27
  | illegal28_2F
  | illegal30_3F
  | illegal40_7F
  | illegal80_FF
  deriving DecidableEq, Repr

/-- The row's mnemonic, as spec/opcode_table.json spells it. -/
def OpRow.mnemonic : OpRow → String
  | .sell => "SELL"
  | .selr => "SELR"
  | .mid => "MID"
  | .side => "SIDE"
  | .pack32 => "PACK32"
  | .unpack32 => "UNPACK32"
  | .invalidMode04_07 => ".invalid_mode.04_07"
  | .invalidMode08_0F => ".invalid_mode.08_0F"
  | .illegal11_11 => ".illegal.11_11"
  | .illegal12_13 => ".illegal.12_13"
  | .illegal14_17 => ".illegal.14_17"
  | .illegal18_1F => ".illegal.18_1F"
  | .illegal21_21 => ".illegal.21_21"
  | .illegal22_23 => ".illegal.22_23"
  | .illegal24_27 => ".illegal.24_27"
  | .illegal28_2F => ".illegal.28_2F"
  | .illegal30_3F => ".illegal.30_3F"
  | .illegal40_7F => ".illegal.40_7F"
  | .illegal80_FF => ".illegal.80_FF"

/-- One request, decoded: what a processor spec would call an instruction (R12 "Operation"). -/
inductive Instr
  /-- SELL, `OP = 0x00` (R50). -/
  | sell (left right : Sample)
  /-- SELR, `OP = 0x01` (R51). -/
  | selr (left right : Sample)
  /-- MID, `OP = 0x02` (R52). -/
  | mid (left right : Sample)
  /-- SIDE, `OP = 0x03` (R53). -/
  | side (left right : Sample)
  /-- PACK32, `OP = 0x10` (R60). -/
  | pack32 (left right : Sample)
  /-- UNPACK32, `OP = 0x20` (R66). -/
  | unpack32 (mid side : Sample)
  /-- InvalidMode, `OP` in `0x04` to `0x07` (R43, R54). -/
  | invalidMode04_07 (op : OpCode) (data : Data)
  /-- InvalidMode, `OP` in `0x08` to `0x0F` (R43, R54). -/
  | invalidMode08_0F (op : OpCode) (data : Data)
  /-- IllegalRequest, `OP = 0x11` (R44). -/
  | illegal11_11 (data : Data)
  /-- IllegalRequest, `OP` in `0x12` to `0x13` (R44). -/
  | illegal12_13 (op : OpCode) (data : Data)
  /-- IllegalRequest, `OP` in `0x14` to `0x17` (R44). -/
  | illegal14_17 (op : OpCode) (data : Data)
  /-- IllegalRequest, `OP` in `0x18` to `0x1F` (R44). -/
  | illegal18_1F (op : OpCode) (data : Data)
  /-- IllegalRequest, `OP = 0x21` (R44). -/
  | illegal21_21 (data : Data)
  /-- IllegalRequest, `OP` in `0x22` to `0x23` (R44). -/
  | illegal22_23 (op : OpCode) (data : Data)
  /-- IllegalRequest, `OP` in `0x24` to `0x27` (R44). -/
  | illegal24_27 (op : OpCode) (data : Data)
  /-- IllegalRequest, `OP` in `0x28` to `0x2F` (R44). -/
  | illegal28_2F (op : OpCode) (data : Data)
  /-- IllegalRequest, `OP` in `0x30` to `0x3F` (R44). -/
  | illegal30_3F (op : OpCode) (data : Data)
  /-- IllegalRequest, `OP` in `0x40` to `0x7F` (R44). -/
  | illegal40_7F (op : OpCode) (data : Data)
  /-- IllegalRequest, `OP` in `0x80` to `0xFF` (R44). -/
  | illegal80_FF (op : OpCode) (data : Data)
  deriving DecidableEq, Repr

/-- The row of the table the instruction is of. -/
def Instr.row : Instr → OpRow
  | .sell _ _ => .sell
  | .selr _ _ => .selr
  | .mid _ _ => .mid
  | .side _ _ => .side
  | .pack32 _ _ => .pack32
  | .unpack32 _ _ => .unpack32
  | .invalidMode04_07 _ _ => .invalidMode04_07
  | .invalidMode08_0F _ _ => .invalidMode08_0F
  | .illegal11_11 _ => .illegal11_11
  | .illegal12_13 _ _ => .illegal12_13
  | .illegal14_17 _ _ => .illegal14_17
  | .illegal18_1F _ _ => .illegal18_1F
  | .illegal21_21 _ => .illegal21_21
  | .illegal22_23 _ _ => .illegal22_23
  | .illegal24_27 _ _ => .illegal24_27
  | .illegal28_2F _ _ => .illegal28_2F
  | .illegal30_3F _ _ => .illegal30_3F
  | .illegal40_7F _ _ => .illegal40_7F
  | .illegal80_FF _ _ => .illegal80_FF

/-- The instruction's mnemonic. -/
def Instr.mnemonic (i : Instr) : String := i.row.mnemonic

/-- The operation code `OP` of the instruction's request (R38, R42 to R44). -/
def Instr.op : Instr → OpCode
  | .sell _ _ => 0x00#8
  | .selr _ _ => 0x01#8
  | .mid _ _ => 0x02#8
  | .side _ _ => 0x03#8
  | .pack32 _ _ => 0x10#8
  | .unpack32 _ _ => 0x20#8
  | .invalidMode04_07 op _ => op
  | .invalidMode08_0F op _ => op
  | .illegal11_11 _ => 0x11#8
  | .illegal12_13 op _ => op
  | .illegal14_17 op _ => op
  | .illegal18_1F op _ => op
  | .illegal21_21 _ => 0x21#8
  | .illegal22_23 op _ => op
  | .illegal24_27 op _ => op
  | .illegal28_2F op _ => op
  | .illegal30_3F op _ => op
  | .illegal40_7F op _ => op
  | .illegal80_FF op _ => op

/-- The operand word `DATA` of the instruction's request: the right sample or the mid field is its high half (R39,
R40, R42). -/
def Instr.data : Instr → Data
  | .sell left right => right ++ left
  | .selr left right => right ++ left
  | .mid left right => right ++ left
  | .side left right => right ++ left
  | .pack32 left right => right ++ left
  | .unpack32 m s => m ++ s
  | .invalidMode04_07 _ data => data
  | .invalidMode08_0F _ data => data
  | .illegal11_11 data => data
  | .illegal12_13 _ data => data
  | .illegal14_17 _ data => data
  | .illegal18_1F _ data => data
  | .illegal21_21 data => data
  | .illegal22_23 _ data => data
  | .illegal24_27 _ data => data
  | .illegal28_2F _ data => data
  | .illegal30_3F _ data => data
  | .illegal40_7F _ data => data
  | .illegal80_FF _ data => data

end Sys2Proof
end

