-- ==== Sys2Proof/WellFormed.lean ====
section
/-! DEFINITION. Well-formedness. `Instr.wf`: the instruction's `OP` is one its row of the opcode table selects, so
that it has an encoding of its own (R42 to R45). `Program.wf`: the check on a program, which also refuses the `OP`
values that name no operation, because "software must not rely on the error" (R44; spec/93_implementation_defined.md
U5; log 18). -/

namespace Sys2Proof

/-- Bits 39:32 of the row's mask in spec/opcode_table.json; bits 31:0 are 0 in every row. -/
def Instr.opMask : Instr → OpCode
  | .sell _ _ => 0xFF#8
  | .selr _ _ => 0xFF#8
  | .mid _ _ => 0xFF#8
  | .side _ _ => 0xFF#8
  | .pack32 _ _ => 0xFF#8
  | .unpack32 _ _ => 0xFF#8
  | .invalidMode04_07 _ _ => 0xFC#8
  | .invalidMode08_0F _ _ => 0xF8#8
  | .illegal11_11 _ => 0xFF#8
  | .illegal12_13 _ _ => 0xFE#8
  | .illegal14_17 _ _ => 0xFC#8
  | .illegal18_1F _ _ => 0xF8#8
  | .illegal21_21 _ => 0xFF#8
  | .illegal22_23 _ _ => 0xFE#8
  | .illegal24_27 _ _ => 0xFC#8
  | .illegal28_2F _ _ => 0xF8#8
  | .illegal30_3F _ _ => 0xF0#8
  | .illegal40_7F _ _ => 0xC0#8
  | .illegal80_FF _ _ => 0x80#8

/-- Bits 39:32 of the row's match in spec/opcode_table.json; bits 31:0 are 0 in every row. -/
def Instr.opMatch : Instr → OpCode
  | .sell _ _ => 0x00#8
  | .selr _ _ => 0x01#8
  | .mid _ _ => 0x02#8
  | .side _ _ => 0x03#8
  | .pack32 _ _ => 0x10#8
  | .unpack32 _ _ => 0x20#8
  | .invalidMode04_07 _ _ => 0x04#8
  | .invalidMode08_0F _ _ => 0x08#8
  | .illegal11_11 _ => 0x11#8
  | .illegal12_13 _ _ => 0x12#8
  | .illegal14_17 _ _ => 0x14#8
  | .illegal18_1F _ _ => 0x18#8
  | .illegal21_21 _ => 0x21#8
  | .illegal22_23 _ _ => 0x22#8
  | .illegal24_27 _ _ => 0x24#8
  | .illegal28_2F _ _ => 0x28#8
  | .illegal30_3F _ _ => 0x30#8
  | .illegal40_7F _ _ => 0x40#8
  | .illegal80_FF _ _ => 0x80#8

/-- The instruction is one its row encodes: `OP & mask = match` (R42). -/
def Instr.wf (i : Instr) : Bool := i.op &&& i.opMask == i.opMatch

/-- The `OP` values that a later revision may assign: those of the IllegalRequest rows (R44). -/
def Instr.unassigned : Instr → Bool
  | .sell _ _ => false
  | .selr _ _ => false
  | .mid _ _ => false
  | .side _ _ => false
  | .pack32 _ _ => false
  | .unpack32 _ _ => false
  | .invalidMode04_07 _ _ => false
  | .invalidMode08_0F _ _ => false
  | .illegal11_11 _ => true
  | .illegal12_13 _ _ => true
  | .illegal14_17 _ _ => true
  | .illegal18_1F _ _ => true
  | .illegal21_21 _ => true
  | .illegal22_23 _ _ => true
  | .illegal24_27 _ _ => true
  | .illegal28_2F _ _ => true
  | .illegal30_3F _ _ => true
  | .illegal40_7F _ _ => true
  | .illegal80_FF _ _ => true

/-- A program a claim may be about: every request is well formed and none relies on an unassigned `OP` (U5). -/
def Program.wf (p : List Instr) : Bool := p.all fun i => i.wf && !i.unassigned

end Sys2Proof
end

