-- ==== Sys2Proof/Decode.lean ====
section
/-! DEFINITION. The request word's fields (R37, R38), the opcode table as data (R42 to R44), the decoder, total on
all `2^40` words (R45), the encoder, and the host's entry `decodeTableWord`. -/

namespace Sys2Proof

/-- `OP`, bits 39:32 of a request (R37). -/
def reqOp (q : Request) : OpCode := q.extractLsb' 32 8

/-- `DATA`, bits 31:0 of a request (R37). -/
def reqData (q : Request) : Data := q.extractLsb' 0 32

/-- `UNIT`, bits 39:36 of a request (R38). -/
def reqUnit (q : Request) : BitVec 4 := q.extractLsb' 36 4

/-- `MODE`, bits 35:32 of a request (R38). -/
def reqMode (q : Request) : ModeTag := q.extractLsb' 32 4

/-- The request word `{OP, DATA}` (R37). -/
def mkRequest (op : OpCode) (data : Data) : Request := op ++ data

/-- The low half of an operand word: the left sample of a stereo frame, the side field of a coded sample (R39,
R40). -/
def lowHalf (d : Data) : Sample := d.extractLsb' 0 16

/-- The high half of an operand word: the right sample of a stereo frame, the mid field of a coded sample (R39,
R40). -/
def highHalf (d : Data) : Sample := d.extractLsb' 16 16

/-- A row of the opcode table with its match and mask on the 40-bit request word (R42). -/
structure OpcodeRow where
  row     : OpRow
  pattern : BitVec 40
  mask    : BitVec 40
  deriving DecidableEq, Repr

/-- A request selects a row when `q & mask = match` (R42). -/
def OpcodeRow.selects (r : OpcodeRow) (q : Request) : Bool := q &&& r.mask == r.pattern

/-- The six operations (R42). -/
def operationRows : List OpcodeRow :=
  [⟨.sell, 0x0000000000#40, 0xFF00000000#40⟩,
   ⟨.selr, 0x0100000000#40, 0xFF00000000#40⟩,
   ⟨.mid, 0x0200000000#40, 0xFF00000000#40⟩,
   ⟨.side, 0x0300000000#40, 0xFF00000000#40⟩,
   ⟨.pack32, 0x1000000000#40, 0xFF00000000#40⟩,
   ⟨.unpack32, 0x2000000000#40, 0xFF00000000#40⟩]

/-- The two InvalidMode rows (R43). -/
def invalidModeRows : List OpcodeRow :=
  [⟨.invalidMode04_07, 0x0400000000#40, 0xFC00000000#40⟩,
   ⟨.invalidMode08_0F, 0x0800000000#40, 0xF800000000#40⟩]

/-- The eleven IllegalRequest rows (R44). -/
def illegalRows : List OpcodeRow :=
  [⟨.illegal11_11, 0x1100000000#40, 0xFF00000000#40⟩,
   ⟨.illegal12_13, 0x1200000000#40, 0xFE00000000#40⟩,
   ⟨.illegal14_17, 0x1400000000#40, 0xFC00000000#40⟩,
   ⟨.illegal18_1F, 0x1800000000#40, 0xF800000000#40⟩,
   ⟨.illegal21_21, 0x2100000000#40, 0xFF00000000#40⟩,
   ⟨.illegal22_23, 0x2200000000#40, 0xFE00000000#40⟩,
   ⟨.illegal24_27, 0x2400000000#40, 0xFC00000000#40⟩,
   ⟨.illegal28_2F, 0x2800000000#40, 0xF800000000#40⟩,
   ⟨.illegal30_3F, 0x3000000000#40, 0xF000000000#40⟩,
   ⟨.illegal40_7F, 0x4000000000#40, 0xC000000000#40⟩,
   ⟨.illegal80_FF, 0x8000000000#40, 0x8000000000#40⟩]

/-- The rows of spec/opcode_table.json, in its order (R42 to R45). -/
def opcodeRows : List OpcodeRow := operationRows ++ invalidModeRows ++ illegalRows

/-- The row that selects an `OP`. No mask has a bit below bit 32, so `DATA` plays no part (R45). Some row always
selects; the default is never taken. -/
def rowOf (op : OpCode) : OpRow :=
  match opcodeRows.find? fun r => r.selects (mkRequest op 0x00000000#32) with
  | some r => r.row
  | none => .illegal80_FF

/-- The instruction of a row, with the fields its encoding string names (R42 to R44). -/
def instrOf (row : OpRow) (op : OpCode) (data : Data) : Instr :=
  match row with
  | .sell => .sell (lowHalf data) (highHalf data)
  | .selr => .selr (lowHalf data) (highHalf data)
  | .mid => .mid (lowHalf data) (highHalf data)
  | .side => .side (lowHalf data) (highHalf data)
  | .pack32 => .pack32 (lowHalf data) (highHalf data)
  | .unpack32 => .unpack32 (highHalf data) (lowHalf data)
  | .invalidMode04_07 => .invalidMode04_07 op data
  | .invalidMode08_0F => .invalidMode08_0F op data
  | .illegal11_11 => .illegal11_11 data
  | .illegal12_13 => .illegal12_13 op data
  | .illegal14_17 => .illegal14_17 op data
  | .illegal18_1F => .illegal18_1F op data
  | .illegal21_21 => .illegal21_21 data
  | .illegal22_23 => .illegal22_23 op data
  | .illegal24_27 => .illegal24_27 op data
  | .illegal28_2F => .illegal28_2F op data
  | .illegal30_3F => .illegal30_3F op data
  | .illegal40_7F => .illegal40_7F op data
  | .illegal80_FF => .illegal80_FF op data

/-- The decoder: total on all `2^40` request words, and it depends on `OP` alone (R45). -/
def decode (q : Request) : Instr := instrOf (rowOf (reqOp q)) (reqOp q) (reqData q)

/-- The encoder: the request word of an instruction, written from the encoding strings of R42. -/
def encode : Instr → Request
  | .sell left right => mkRequest 0x00#8 (right ++ left)
  | .selr left right => mkRequest 0x01#8 (right ++ left)
  | .mid left right => mkRequest 0x02#8 (right ++ left)
  | .side left right => mkRequest 0x03#8 (right ++ left)
  | .pack32 left right => mkRequest 0x10#8 (right ++ left)
  | .unpack32 mid side => mkRequest 0x20#8 (mid ++ side)
  | .invalidMode04_07 op data => mkRequest op data
  | .invalidMode08_0F op data => mkRequest op data
  | .illegal11_11 data => mkRequest 0x11#8 data
  | .illegal12_13 op data => mkRequest op data
  | .illegal14_17 op data => mkRequest op data
  | .illegal18_1F op data => mkRequest op data
  | .illegal21_21 data => mkRequest 0x21#8 data
  | .illegal22_23 op data => mkRequest op data
  | .illegal24_27 op data => mkRequest op data
  | .illegal28_2F op data => mkRequest op data
  | .illegal30_3F op data => mkRequest op data
  | .illegal40_7F op data => mkRequest op data
  | .illegal80_FF op data => mkRequest op data

/-- Why a byte string is no request. -/
inductive DecodeReject
  | notFiveBytes (length : Nat)   -- a request is 40 bits, never shorter or longer (R37)
  deriving DecidableEq, Repr

/-- A request from its five bytes, least significant first: the four bytes of the frame in stream order (R26), then
`OP`. The spec stores no request word; the order is the model's own (DESIGN CHOICE, log 12). -/
def decodeBytes : List Byte → Except DecodeReject Instr
  | [b0, b1, b2, b3, op] => .ok (decode (mkRequest op (b3 ++ b2 ++ b1 ++ b0)))
  | bs => .error (.notFiveBytes bs.length)

/-- The instruction the decoder reads from a table word `w` of `nbits` bits, the bits above `nbits` being 0; none
where the word is wider than a request. -/
def decodeTableWord (nbits w : Nat) : Option Instr :=
  if w % 2 ^ nbits < 2 ^ 40 then some (decode (BitVec.ofNat 40 (w % 2 ^ nbits))) else none

end Sys2Proof
end

