-- ==== Sys2Proof/Machine/Flags.lean ====
section
/-! DEFINITION. The only condition the block reports, the `STATUS` field of each response (R17, R41), and the
response word's fields. No persistent flag exists, and saturation sets none (R17). -/

namespace Sys2Proof.Machine

/-- `STATUS = 0x00`, OK (R41). -/
def statusOk : Status := 0x00#8

/-- The errors the block reports (R93). -/
inductive BlockError
  | invalidMode
  | illegalRequest
  deriving DecidableEq, Repr

/-- `STATUS` of an error response (R41, R93). -/
def BlockError.status : BlockError → Status
  | .invalidMode => 0x01#8
  | .illegalRequest => 0x02#8

/-- The response word `{STATUS, RDATA}` (R41). -/
def mkResponse (status : Status) (rdata : Data) : Response := status ++ rdata

/-- `STATUS`, bits 39:32 of a response (R41). -/
def rspStatus (r : Response) : Status := r.extractLsb' 32 8

/-- `RDATA`, bits 31:0 of a response (R41). -/
def rspData (r : Response) : Data := r.extractLsb' 0 32

end Sys2Proof.Machine
end

