-- ==== Sys2Proof/Config.lean ====
section
/-! DEFINITION. The parameters of spec/00_scope.md R4: constants of this build, and the two host parameters the
spec leaves open, as opaque constants of which nothing can be proved. `W`, `CW`, `REQ_W` and `RSP_W` are the
widths of the types of Sys2Proof/Word.lean, `RSP_DEPTH = 1` is the `Option` of State, and `LAT` is not in the
model, which has no time (R109; log 1). -/

namespace Sys2Proof

/-- What the host does with payload bytes that do not fill a frame (R91). -/
inductive TrailingPolicy
  | refuse   -- fail the call with FormatError before offering any request
  | drop     -- process the whole frames and ignore the rest
  deriving DecidableEq, Repr, Inhabited

/-- `MID_SEXT`: whether UNPACK32 sign-extends the mid field. Fixed to 0, it does not (R4, R67; D12; log 8). -/
def Config.midSext : Bool := false

/-- `SAT_MIN` (R4, R10). -/
def Config.satMin : Int := -32768

/-- `SAT_MAX` (R4, R10). -/
def Config.satMax : Int := 32767

/-- `TRAILING_POLICY`, open (R4, R91; D18; log 7). No claim may rest on its value. -/
opaque Config.trailingPolicy : TrailingPolicy

/-- Whether `stereo_to_mono` refuses a stereo file of this many bits per sample where that is neither 16 nor 32;
the spec says to assume neither answer (N32; log 9). -/
opaque Config.otherDepthRefused : Nat → Bool

end Sys2Proof
end

