-- ==== Sys2Proof/Machine/Operands.lean ====
section
/-! DEFINITION. The arithmetic primitives of spec/00_scope.md R7 to R11, the reading of operand fields (R39, R40,
R66) and the layouts of results (R41). All arithmetic between them is on unbounded integers (R5). -/

namespace Sys2Proof.Machine

/-- `fdiv2(n)`: floor division by two, toward negative infinity (R7). Lean's `/` on `Int` is Euclidean division,
which for the divisor 2 is floor division. -/
def fdiv2 (n : Int) : Int := n / 2

/-- `trunc16(n)`: the low 16 bits in two's complement, never a clamp (R8, R11). -/
def trunc16 (n : Int) : Sample := BitVec.ofInt 16 n

/-- `sext16(t)`: the signed value of a 16-bit word (R9). -/
def sext16 (t : Sample) : Int := t.toInt

/-- `sat16(n)`: the nearest integer of `[-32768, 32767]`, both bounds inclusive (R10, R11). -/
def sat16 (n : Int) : Int :=
  if n < Config.satMin then Config.satMin else if n > Config.satMax then Config.satMax else n

/-- The mid field as UNPACK32 reads it: unsigned where `MID_SEXT = 0`, this hardware (R66); signed in the variant
`MID_SEXT = 1`, which it does not implement (R67). -/
def readMid (midSext : Bool) (mid : Sample) : Int := if midSext then sext16 mid else (mid.toNat : Int)

/-- The result word of a mixer operation: one 16-bit sample, the upper half zero (R41, R49). -/
def monoWord (v : Int) : Data := 0x0000#16 ++ trunc16 v

/-- The result word of UNPACK32: left in the low half, right in the high half (R41, R66). -/
def frameWord (left right : Int) : Data := trunc16 right ++ trunc16 left

/-- A coded sample: mid in the high half, side in the low half, each truncated before it is placed (R60). -/
def codedWord (mid side : Int) : Data := trunc16 mid ++ trunc16 side

end Sys2Proof.Machine
end

