-- ==== Sys2Proof/Machine/State.lean ====
section
/-! DEFINITION. The state of the system: the block's pending response (R14), the request the host holds on the
request port (R88), and the host (R13, R20, R80): its coming moves, its records, its converter call and its output
stream. The reasons a step can stop: none (R100). Every field is plain data. -/

namespace Sys2Proof.Machine

/-- The field a `MismatchError` names (R83). -/
inductive MismatchField
  | sampleRate
  | bitsPerSample
  | dataSize
  deriving DecidableEq, Repr

/-- The errors the host raises; they never cross the block's ports (R92, R94). -/
inductive HostError
  | formatError
  | notStereoError
  | notMonoError
  | unsupportedFormatError
  | mismatchError (field : MismatchField)
  | invalidModeError
  deriving DecidableEq, Repr

/-- Why a converter call failed: an error of the host's own, or a response whose `STATUS` is neither OK nor
InvalidMode, for which the spec names no host error (R87, R99; log 13). -/
inductive CallFailure
  | error (e : HostError)
  | response (status : Status)
  deriving DecidableEq, Repr

/-- A call of one of the four stream converters on whole input streams (R80, R82 to R85). The mode selector of
`stereo_to_mono` is a 4-bit tag numbered as R38 numbers it; a tag of 4 to 15 is "outside the four" (log 21). A
call names no output stream: all write State's one `output` (DESIGN CHOICE, log 23). -/
inductive Call
  | stereoToMono (input : List Byte) (mode : ModeTag)
  | monoPairToStereo (leftIn rightIn : List Byte)
  | stereoToCoded32 (input : List Byte)
  | coded32ToStereo (input : List Byte)
  deriving DecidableEq, Repr

/-- A converter call in progress: its requests in frame order (R81), the bytes of output each response contributes
(R86, the output frame `G`), and what the output header says (R86). -/
structure Run where
  requests      : List Request
  resultBytes   : Nat
  channelCount  : Nat
  sampleRate    : Nat
  bitsPerSample : Nat
  deriving DecidableEq, Repr

/-- What the host is doing (R80, R87, R90). -/
inductive HostState
  | idle
  | running (r : Run)
  | done
  | failed (f : CallFailure)
  deriving DecidableEq, Repr

/-- One coming move of the host (R88, R105; log 2). -/
inductive Event
  /-- `rst = 1` at this edge (R105). -/
  | reset
  /-- The host neither offers anything new nor takes a response at this edge (R88 "any length of time"). -/
  | wait
  /-- The host begins to offer a request, any 40-bit word (R88). -/
  | offer (q : Request)
  /-- `rsp_ready = 1` at this edge (R23). -/
  | take
  /-- The host does the next thing its converter call needs; nothing where no call runs (R81, log 2). -/
  | serve
  /-- The caller starts a converter call (R80). -/
  | call (c : Call)
  deriving DecidableEq, Repr

/-- The whole state. `pending` is the block's only state; all other fields are the host's or the port's. -/
structure State where
  /-- `RSP_VALID` and `RSP`: none for `RSP_VALID = 0` (R14). -/
  pending   : Option Response
  /-- `req_valid` and `req`: the request the host is offering and holds until it is accepted (R88). -/
  offered   : Option Request
  /-- The host's coming moves, the next one first (the model's own field, log 2). -/
  agenda    : List Event
  /-- The requests accepted since the last reset or the beginning of the call (the model's own field, log 4). -/
  accepted  : List Request
  /-- The responses delivered since the last reset or the beginning of the call (the model's own field, log 4). -/
  delivered : List Response
  /-- The converter call, if any (R80). -/
  host      : HostState
  /-- The output stream of the last call that ended in success, written whole and only at that end (R87, R90). That
  the calls share one field, which each success replaces, is the model's choice (DESIGN CHOICE, log 23). -/
  output    : List Byte
  deriving DecidableEq, Repr

/-- The reasons a step stops with a fault. There are none: "the machine has no fault state at all" (R100; log 19).
Nothing raises one; safe. -/
inductive Fault
  deriving DecidableEq, Repr

/-- The reasons a step is refused. -/
inductive Refusal
  /-- Raised by an arm of `exec` whose instruction has no meaning yet, and by nothing else; no arm is left. Safe. -/
  | notModelled (mnemonic : String)
  deriving DecidableEq, Repr

/-- The system right after reset: nothing pending (R24), an idle host with nothing to do (log 6). -/
def State.reset : State where
  pending   := none
  offered   := none
  agenda    := []
  accepted  := []
  delivered := []
  host      := .idle
  output    := []

end Sys2Proof.Machine
end

