-- ==== Sys2Proof/Machine/Ops.lean ====
section
/-! DEFINITION. The operations every meaning is made of: `respond`, the block's only write (R6), and `raise`, the
error response, which is the block's counterpart of taking an exception (R95). There is no return from an error: the
error is not latched and there is nothing to restore (R96). -/

namespace Sys2Proof.Machine

/-- `respond(status, rdata)`: `RSP <- {status, rdata}`, `RSP_VALID <- 1`; nothing else changes (R6, R22, R41). -/
def respond (status : Status) (rdata : Data) (s : State) : Host.Outcome State Fault Refusal :=
  .next { s with pending := some (mkResponse status rdata) }

/-- `raise <Error>`: the error's `STATUS` and a zero `RDATA`; no state is saved, no mode changes, control goes
nowhere and `DATA` is not inspected (R6, R95). -/
def raise (e : BlockError) (s : State) : Host.Outcome State Fault Refusal :=
  respond e.status 0x00000000#32 s

/-- The state an outcome goes on to, if it goes on. -/
def resultState : Host.Outcome State Fault Refusal → Option State
  | .next t => some t
  | .fault _ => none
  | .refused _ => none

end Sys2Proof.Machine
end

