-- ==== Sys2Proof/Machine/Decoder.lean ====
section
/-! DEFINITION. The mono_to_stereo_decoder (spec/42_mono_to_stereo_decoder.md): UNPACK32. -/

namespace Sys2Proof.Machine

/-- `unpack32` on the value read from the mid field and the signed side: the sum and the difference at full
precision, each saturated; no rounding (R66, R70). -/
def unpackWord (mid side : Int) : Data := frameWord (sat16 (mid + side)) (sat16 (mid - side))

/-- UNPACK32 (R66, with the parameter of R67 at this hardware's value). -/
def execUnpack32 (mid side : Sample) (s : State) : Host.Outcome State Fault Refusal :=
  respond statusOk (unpackWord (readMid Config.midSext mid) (sext16 side)) s

end Sys2Proof.Machine
end

