-- ==== Sys2Proof/Machine/Encoder.lean ====
section
/-! DEFINITION. The stereo_to_mono_encoder (spec/41_stereo_to_mono_encoder.md): PACK32. -/

namespace Sys2Proof.Machine

/-- `pack32(left, right)`: half-sum and half-difference by floor, each truncated to 16 bits, never clamped (R60,
R11). -/
def packPair (left right : Int) : Data := codedWord (fdiv2 (left + right)) (fdiv2 (left - right))

/-- PACK32 (R60). -/
def execPack32 (left right : Sample) (s : State) : Host.Outcome State Fault Refusal :=
  respond statusOk (packPair (sext16 left) (sext16 right)) s

end Sys2Proof.Machine
end

