-- ==== Sys2Proof/Machine/ErrorRows.lean ====
section
/-! DEFINITION. The meanings of the eleven IllegalRequest rows: an `OP` that names no operation executes `raise
IllegalRequest`, whatever `DATA` holds (R44, R93, R95). (The two InvalidMode rows are the channel_mixer's, in
Sys2Proof/Machine/Mixer.lean.) -/

namespace Sys2Proof.Machine

/-- .illegal.11_11 (R44). -/
def execIllegal11_11 (_data : Data) (s : State) : Host.Outcome State Fault Refusal :=
  raise .illegalRequest s

/-- .illegal.12_13 (R44). -/
def execIllegal12_13 (_op : OpCode) (_data : Data) (s : State) : Host.Outcome State Fault Refusal :=
  raise .illegalRequest s

/-- .illegal.14_17 (R44). -/
def execIllegal14_17 (_op : OpCode) (_data : Data) (s : State) : Host.Outcome State Fault Refusal :=
  raise .illegalRequest s

/-- .illegal.18_1F (R44). -/
def execIllegal18_1F (_op : OpCode) (_data : Data) (s : State) : Host.Outcome State Fault Refusal :=
  raise .illegalRequest s

/-- .illegal.21_21 (R44). -/
def execIllegal21_21 (_data : Data) (s : State) : Host.Outcome State Fault Refusal :=
  raise .illegalRequest s

/-- .illegal.22_23 (R44). -/
def execIllegal22_23 (_op : OpCode) (_data : Data) (s : State) : Host.Outcome State Fault Refusal :=
  raise .illegalRequest s

/-- .illegal.24_27 (R44). -/
def execIllegal24_27 (_op : OpCode) (_data : Data) (s : State) : Host.Outcome State Fault Refusal :=
  raise .illegalRequest s

/-- .illegal.28_2F (R44). -/
def execIllegal28_2F (_op : OpCode) (_data : Data) (s : State) : Host.Outcome State Fault Refusal :=
  raise .illegalRequest s

/-- .illegal.30_3F (R44). -/
def execIllegal30_3F (_op : OpCode) (_data : Data) (s : State) : Host.Outcome State Fault Refusal :=
  raise .illegalRequest s

/-- .illegal.40_7F (R44). -/
def execIllegal40_7F (_op : OpCode) (_data : Data) (s : State) : Host.Outcome State Fault Refusal :=
  raise .illegalRequest s

/-- .illegal.80_FF (R44). -/
def execIllegal80_FF (_op : OpCode) (_data : Data) (s : State) : Host.Outcome State Fault Refusal :=
  raise .illegalRequest s

end Sys2Proof.Machine
end

