-- ==== Sys2Proof/Machine/Mixer.lean ====
section
/-! DEFINITION. The channel_mixer (spec/40_channel_mixer.md): SELL, SELR, MID, SIDE and the two InvalidMode rows. -/

namespace Sys2Proof.Machine

/-- The four mode tags of `select_or_combine` (R38, R42). -/
inductive MixMode
  | leftOnly
  | rightOnly
  | mid
  | side
  deriving DecidableEq, Repr

/-- The mode a 4-bit tag names; none for a tag "outside the four" (R38, R43). -/
def modeOfTag (tag : ModeTag) : Option MixMode :=
  if tag = 0x0#4 then some .leftOnly
  else if tag = 0x1#4 then some .rightOnly
  else if tag = 0x2#4 then some .mid
  else if tag = 0x3#4 then some .side
  else none

/-- `select_or_combine(left, right, mode)` on integers of any width: the sum and the difference are formed at full
precision and floor-halved (R49 to R53; R59 at width 32). -/
def selectOrCombine (left right : Int) : MixMode → Int
  | .leftOnly => left
  | .rightOnly => right
  | .mid => fdiv2 (left + right)
  | .side => fdiv2 (left - right)

/-- SELL (R50). -/
def execSell (left right : Sample) (s : State) : Host.Outcome State Fault Refusal :=
  respond statusOk (monoWord (selectOrCombine (sext16 left) (sext16 right) .leftOnly)) s

/-- SELR (R51). -/
def execSelr (left right : Sample) (s : State) : Host.Outcome State Fault Refusal :=
  respond statusOk (monoWord (selectOrCombine (sext16 left) (sext16 right) .rightOnly)) s

/-- MID (R52). -/
def execMid (left right : Sample) (s : State) : Host.Outcome State Fault Refusal :=
  respond statusOk (monoWord (selectOrCombine (sext16 left) (sext16 right) .mid)) s

/-- SIDE (R53). -/
def execSide (left right : Sample) (s : State) : Host.Outcome State Fault Refusal :=
  respond statusOk (monoWord (selectOrCombine (sext16 left) (sext16 right) .side)) s

/-- .invalid_mode.04_07: `raise InvalidMode`, whatever `DATA` holds (R43, R54). -/
def execInvalidMode04_07 (_op : OpCode) (_data : Data) (s : State) : Host.Outcome State Fault Refusal :=
  raise .invalidMode s

/-- .invalid_mode.08_0F: `raise InvalidMode`, whatever `DATA` holds (R43, R54). -/
def execInvalidMode08_0F (_op : OpCode) (_data : Data) (s : State) : Host.Outcome State Fault Refusal :=
  raise .invalidMode s

end Sys2Proof.Machine
end

