-- ==== Sys2Proof/Machine/Dispatch.lean ====
section
/-! DEFINITION. `exec`: one arm for each constructor of `Instr`, one direct call of its meaning (R22, R42 to R45). -/

namespace Sys2Proof.Machine

def exec (i : Instr) (s : State) : Host.Outcome State Fault Refusal :=
  match i with
  | .sell left right => Sys2Proof.Machine.execSell left right s
  | .selr left right => Sys2Proof.Machine.execSelr left right s
  | .mid left right => Sys2Proof.Machine.execMid left right s
  | .side left right => Sys2Proof.Machine.execSide left right s
  | .pack32 left right => Sys2Proof.Machine.execPack32 left right s
  | .unpack32 mid side => Sys2Proof.Machine.execUnpack32 mid side s
  | .invalidMode04_07 op data => Sys2Proof.Machine.execInvalidMode04_07 op data s
  | .invalidMode08_0F op data => Sys2Proof.Machine.execInvalidMode08_0F op data s
  | .illegal11_11 data => Sys2Proof.Machine.execIllegal11_11 data s
  | .illegal12_13 op data => Sys2Proof.Machine.execIllegal12_13 op data s
  | .illegal14_17 op data => Sys2Proof.Machine.execIllegal14_17 op data s
  | .illegal18_1F op data => Sys2Proof.Machine.execIllegal18_1F op data s
  | .illegal21_21 data => Sys2Proof.Machine.execIllegal21_21 data s
  | .illegal22_23 op data => Sys2Proof.Machine.execIllegal22_23 op data s
  | .illegal24_27 op data => Sys2Proof.Machine.execIllegal24_27 op data s
  | .illegal28_2F op data => Sys2Proof.Machine.execIllegal28_2F op data s
  | .illegal30_3F op data => Sys2Proof.Machine.execIllegal30_3F op data s
  | .illegal40_7F op data => Sys2Proof.Machine.execIllegal40_7F op data s
  | .illegal80_FF op data => Sys2Proof.Machine.execIllegal80_FF op data s

end Sys2Proof.Machine
end

