-- ==== Sys2Proof/Machine/Container.lean ====
section
/-! DEFINITION. The host's container codec (R75 to R79): little-endian reads and writes of byte streams (R6, R25),
the 44-byte header. It binds the host, never the block. -/

namespace Sys2Proof.Machine

/-- The unsigned integer of bytes in stream order, least significant first (R25). -/
def leNat : List Byte → Nat
  | [] => 0
  | b :: bs => b.toNat + 256 * leNat bs

/-- The low `8n` bits of `v` as `n` bytes, least significant first: what `MemWrite` stores (R6, R25). -/
def leBytes : Nat → Nat → List Byte
  | 0, _ => []
  | n + 1, v => BitVec.ofNat 8 v :: leBytes n (v / 256)

/-- The `n` bytes of a stream from offset `addr`. -/
def streamBytes (stream : List Byte) (addr n : Nat) : List Byte := (stream.drop addr).take n

/-- `MemRead(addr, n)` on a stream (R6). -/
def memRead (stream : List Byte) (addr n : Nat) : Nat := leNat (streamBytes stream addr n)

/-- The length of the header, where the payload begins (R30, R75). -/
def headerLength : Nat := 44

/-- `"RIFF"` (R79; log 14). -/
def containerTag : List Byte := [0x52, 0x49, 0x46, 0x46]

/-- `"WAVE"` (R79; log 14). -/
def formTag : List Byte := [0x57, 0x41, 0x56, 0x45]

/-- `"fmt "` (R79; log 14). -/
def fmtId : List Byte := [0x66, 0x6D, 0x74, 0x20]

/-- `"data"` (R79; log 14). -/
def dataId : List Byte := [0x64, 0x61, 0x74, 0x61]

/-- The numeric fields of a header, all unsigned; never changed after construction (R75, R76). -/
structure Header where
  totalSize     : Nat
  audioFormat   : Nat
  channelCount  : Nat
  sampleRate    : Nat
  byteRate      : Nat
  blockAlign    : Nat
  bitsPerSample : Nat
  dataSize      : Nat
  deriving DecidableEq, Repr

/-- `read_header`: the checks in stream order, then the fields; `total_size`, `byte_rate` and `block_align` are read
and kept, not checked (R77; D20, D24, D26, D27). -/
def readHeader (stream : List Byte) : Except HostError Header :=
  if stream.length < headerLength then .error .formatError
  else if streamBytes stream 0 4 ≠ containerTag then .error .formatError
  else if streamBytes stream 8 4 ≠ formTag then .error .formatError
  else if streamBytes stream 12 4 ≠ fmtId then .error .formatError
  else if memRead stream 16 4 ≠ 16 then .error .formatError
  else if memRead stream 20 2 ≠ 1 then .error .formatError
  else if streamBytes stream 36 4 ≠ dataId then .error .formatError
  else .ok {
    totalSize     := memRead stream 4 4
    audioFormat   := memRead stream 20 2
    channelCount  := memRead stream 22 2
    sampleRate    := memRead stream 24 4
    byteRate      := memRead stream 28 4
    blockAlign    := memRead stream 32 2
    bitsPerSample := memRead stream 34 2
    dataSize      := memRead stream 40 4 }

/-- `bits_per_sample/8`, exact for 16 and 32 (R76). For a depth that is no multiple of 8, for which the spec gives no
value, the quotient is rounded down before it is multiplied (DESIGN CHOICE, log 22). -/
def bytesPerSample (bitsPerSample : Nat) : Nat := bitsPerSample / 8

/-- `block_align = channel_count * bits_per_sample/8` (R76; log 22 where the quotient is not exact). -/
def blockAlignOf (channelCount bitsPerSample : Nat) : Nat := channelCount * bytesPerSample bitsPerSample

/-- `byte_rate = sample_rate * channel_count * bits_per_sample/8` (R76; log 22 where the quotient is not exact). -/
def byteRateOf (channelCount sampleRate bitsPerSample : Nat) : Nat :=
  sampleRate * blockAlignOf channelCount bitsPerSample

/-- `write_header`: the 44 bytes of R75, with `total_size = 36 + data_size` (R78, R79; log 14). A value too wide for
its field leaves its low bits (R6; log 15). -/
def writeHeader (channelCount sampleRate bitsPerSample dataSize : Nat) : List Byte :=
  containerTag ++ leBytes 4 (36 + dataSize) ++ formTag ++ fmtId ++ leBytes 4 16 ++ leBytes 2 1
    ++ leBytes 2 channelCount ++ leBytes 4 sampleRate ++ leBytes 4 (byteRateOf channelCount sampleRate bitsPerSample)
    ++ leBytes 2 (blockAlignOf channelCount bitsPerSample) ++ leBytes 2 bitsPerSample ++ dataId ++ leBytes 4 dataSize

end Sys2Proof.Machine
end

