-- ==== Sys2Proof/Machine/Converters.lean ====
section
/-! DEFINITION. The host's four stream converters (R80 to R92) up to the first request: every check, in the order of
R97 (D21, D26; log 10), then the plan of the call, which is either the requests for the block (R48, R81) or, for the
work the block has no operation for, the whole output (R59, R83). -/

namespace Sys2Proof.Machine

/-- What a call that passed its checks does. -/
inductive Plan
  | drive (r : Run)               -- feed these requests to the block
  | write (output : List Byte)    -- no request: the host computes the output itself
  deriving DecidableEq, Repr

/-- A whole output stream: header, then payload (R80, R86). -/
def outputStream (channelCount sampleRate bitsPerSample : Nat) (payload : List Byte) : List Byte :=
  writeHeader channelCount sampleRate bitsPerSample payload.length ++ payload

/-- The header of an input stream whose payload is all there; bytes after it are ignored (R77; D27; log 10). -/
def openInput (stream : List Byte) : Except HostError Header := do
  let h ← readHeader stream
  if stream.length < headerLength + h.dataSize then .error .formatError else .ok h

/-- The number of frames of `frameBytes` bytes, under the policy for a partial last frame (R81, R91). In frames of no
bytes there are none, and any payload is a partial frame (log 22). -/
def frameCount (policy : TrailingPolicy) (dataSize frameBytes : Nat) : Except HostError Nat :=
  if dataSize % frameBytes = 0 then .ok (dataSize / frameBytes)
  else match policy with
    | .refuse => .error .formatError
    | .drop => .ok (dataSize / frameBytes)

/-- The bytes of frame `i` of a stream's payload (R28). -/
def frameBytesAt (stream : List Byte) (frameBytes i : Nat) : List Byte :=
  streamBytes stream (headerLength + i * frameBytes) frameBytes

/-- The requests for a payload of `n` four-byte frames, `{OP, f_i}` in increasing `i` (R26, R48, R81). -/
def frameRequests (op : OpCode) (stream : List Byte) (n : Nat) : List Request :=
  (List.range n).map fun i => mkRequest op (BitVec.ofNat 32 (leNat (frameBytesAt stream 4 i)))

/-- The `OP` of the mixer operation for a mode (R48). -/
def mixerOp : MixMode → OpCode
  | .leftOnly => 0x00#8
  | .rightOnly => 0x01#8
  | .mid => 0x02#8
  | .side => 0x03#8

/-- The signed integer of a sample of `b` bytes (R25, R39, R59). -/
def signedSample (b : Nat) (bs : List Byte) : Int := (BitVec.ofNat (8 * b) (leNat bs)).toInt

/-- `select_or_combine` on one stereo frame of `2 * b` bytes, in software (R59, R82). -/
def softwareMix (mode : MixMode) (b : Nat) (frame : List Byte) : List Byte :=
  leBytes b (BitVec.ofInt (8 * b)
    (selectOrCombine (signedSample b (frame.take b)) (signedSample b (frame.drop b)) mode)).toNat

/-- Whether a depth is a whole, positive number of bytes; `stereo_to_mono` refuses any other (DESIGN CHOICE, log 9). -/
def wholeBytes (bitsPerSample : Nat) : Bool := bitsPerSample % 8 == 0 && bitsPerSample != 0

/-- The depths `stereo_to_mono` refuses: never 16 or 32; another only where the open constant says so (R82, N32;
log 9). -/
def monoDepthRefused (bitsPerSample : Nat) : Bool :=
  if bitsPerSample = 16 ∨ bitsPerSample = 32 then false
  else !wholeBytes bitsPerSample || Config.otherDepthRefused bitsPerSample

/-- `stereo_to_mono(in, out, mode)` (R82, R86): SELL, SELR, MID or SIDE requests at 16 bits, software at any other
depth (R59). -/
def planStereoToMono (policy : TrailingPolicy) (input : List Byte) (tag : ModeTag) : Except HostError Plan := do
  match modeOfTag tag with
  | none => .error .invalidModeError
  | some mode =>
    let h ← openInput input
    if h.channelCount ≠ 2 then .error .notStereoError
    else if monoDepthRefused h.bitsPerSample then .error .unsupportedFormatError
    else if h.bitsPerSample = 16 then
      let n ← frameCount policy h.dataSize 4
      .ok (.drive ⟨frameRequests (mixerOp mode) input n, 2, 1, h.sampleRate, 16⟩)
    else
      let b := bytesPerSample h.bitsPerSample
      let n ← frameCount policy h.dataSize (2 * b)
      .ok (.write (outputStream 1 h.sampleRate h.bitsPerSample
        ((List.range n).flatMap fun i => softwareMix mode b (frameBytesAt input (2 * b) i))))

/-- The first of `sample_rate`, `bits_per_sample`, `data_size` in which two headers differ (R83; D21). -/
def headerMismatch (l r : Header) : Option MismatchField :=
  if l.sampleRate ≠ r.sampleRate then some .sampleRate
  else if l.bitsPerSample ≠ r.bitsPerSample then some .bitsPerSample
  else if l.dataSize ≠ r.dataSize then some .dataSize
  else none

/-- `mono_pair_to_stereo(left_in, right_in, out)`: the equality of the headers is its only check besides the channel
counts, whatever the depths (R83, R94); then byte movement only, no request to the block (R83, R86), in samples of
`bits_per_sample/8` bytes (log 22 where that is not exact). -/
def planMonoPairToStereo (policy : TrailingPolicy) (leftIn rightIn : List Byte) : Except HostError Plan := do
  let l ← openInput leftIn
  let r ← openInput rightIn
  if l.channelCount ≠ 1 ∨ r.channelCount ≠ 1 then .error .notMonoError
  else match headerMismatch l r with
    | some field => .error (.mismatchError field)
    | none =>
      let b := bytesPerSample l.bitsPerSample
      let n ← frameCount policy l.dataSize b
      .ok (.write (outputStream 2 l.sampleRate l.bitsPerSample
        ((List.range n).flatMap fun i => frameBytesAt leftIn b i ++ frameBytesAt rightIn b i)))

/-- `stereo_to_coded32(in, out)`: one PACK32 request per frame (R84, R86; spec/90_conflicts.md C10). -/
def planStereoToCoded32 (policy : TrailingPolicy) (input : List Byte) : Except HostError Plan := do
  let h ← openInput input
  if h.channelCount ≠ 2 then .error .notStereoError
  else if h.bitsPerSample ≠ 16 then .error .unsupportedFormatError
  else
    let n ← frameCount policy h.dataSize 4
    .ok (.drive ⟨frameRequests 0x10#8 input n, 4, 1, h.sampleRate, 32⟩)

/-- `coded32_to_stereo(in, out)`: one UNPACK32 request per frame (R85, R86). -/
def planCoded32ToStereo (policy : TrailingPolicy) (input : List Byte) : Except HostError Plan := do
  let h ← openInput input
  if h.channelCount ≠ 1 then .error .notMonoError
  else if h.bitsPerSample ≠ 32 then .error .unsupportedFormatError
  else
    let n ← frameCount policy h.dataSize 4
    .ok (.drive ⟨frameRequests 0x20#8 input n, 4, 2, h.sampleRate, 16⟩)

/-- The checks and the plan of a call (R80, R87, R97). -/
def planCall (policy : TrailingPolicy) : Call → Except HostError Plan
  | .stereoToMono input tag => planStereoToMono policy input tag
  | .monoPairToStereo leftIn rightIn => planMonoPairToStereo policy leftIn rightIn
  | .stereoToCoded32 input => planStereoToCoded32 policy input
  | .coded32ToStereo input => planCoded32ToStereo policy input

/-- The payload a call's responses make, in order: the low `G` bytes of each `RDATA`, least significant first (R26,
R64, R73, R81, R89). -/
def resultPayload (resultBytes : Nat) (responses : List Response) : List Byte :=
  responses.flatMap fun r => leBytes resultBytes (rspData r).toNat

/-- The output of a finished run (R86, R90). -/
def Run.outputOf (r : Run) (responses : List Response) : List Byte :=
  outputStream r.channelCount r.sampleRate r.bitsPerSample (resultPayload r.resultBytes responses)

end Sys2Proof.Machine
end

