-- ==== Sys2Proof/Machine/HostAgent.lean ====
section
/-! DEFINITION. The host as an agent (R13, R88): which move it makes next, what it does at the beginning of a call and
when a response reaches it. Inside a call it runs the call, and only a reset or a delay comes between; its other
agenda entries wait until the call is over ("single-threaded, synchronous", R13). -/

namespace Sys2Proof.Machine

/-- One move of the host. -/
inductive Move
  | reset                    -- an edge with rst = 1 (R105)
  | edge (rspReady : Bool)   -- an edge with rst = 0 and this rsp_ready
  | start (c : Call)         -- the host's own work at the beginning of a call; no transfer
  deriving DecidableEq, Repr

/-- The host inside a call: take the response that is pending, else offer the next frame (R81, R88: frame `i + 1`
only after frame `i`). A request already on the port stays there unchanged. -/
def serve (r : Run) (s : State) : Move × State :=
  if s.pending.isSome then (.edge true, s)
  else (.edge false, { s with offered := s.offered.orElse fun _ => r.requests[s.accepted.length]? })

/-- The host's next move, and the state with the port driven for it and the move struck off the agenda. A call in
progress goes on whether or not a `serve` stands on the agenda, so that the agenda can place a reset or a delay after
any number of served edges and a call runs to its end once the agenda has neither (log 2). A second offer waits while a request is held, and a call waits until the port is quiet (R88; log 3, log 16). -/
def hostMove (s : State) : Move × State :=
  match s.host, s.agenda with
  | _, .reset :: rest => (.reset, { s with agenda := rest })
  | _, .wait :: rest => (.edge false, { s with agenda := rest })
  | .running r, .serve :: rest => serve r { s with agenda := rest }
  | .running r, _ => serve r s
  | _, [] => (.edge false, s)
  | _, .serve :: rest => (.edge false, { s with agenda := rest })
  | _, .take :: rest => (.edge true, { s with agenda := rest })
  | _, .offer q :: rest =>
    if s.offered.isSome then (.edge false, s)
    else (.edge false, { s with offered := some q, agenda := rest })
  | _, .call c :: rest =>
    if s.pending.isSome || s.offered.isSome then (.edge true, s)
    else (.start c, { s with agenda := rest })

/-- The beginning of a call: all checks before any request; a failed check, or a call that needs no request, ends it
at once (R87, R90, R106). An output replaces the one an earlier call wrote (log 23). -/
def startCall (policy : TrailingPolicy) (c : Call) (s : State) : State :=
  let s := { s with accepted := [], delivered := [] }
  match planCall policy c with
  | .error e => { s with host := .failed (.error e) }
  | .ok (.write output) => { s with host := .done, output := output }
  | .ok (.drive r) =>
    if r.requests.isEmpty then { s with host := .done, output := r.outputOf [] } else { s with host := .running r }

/-- The failure an error response makes of a call: InvalidMode fails it as the host's own check would (R82, R99;
log 13). -/
def failureOf (status : Status) : CallFailure :=
  if status = BlockError.invalidMode.status then .error .invalidModeError else .response status

/-- What the host does with a response it has just taken, already recorded in `delivered`: inside a call, an error
response ends it with nothing written, and the last response makes it write the output (R87, R90), in the place of the one
an earlier call wrote (log 23). -/
def receive (rsp : Response) (s : State) : State :=
  match s.host with
  | .running r =>
    if rspStatus rsp ≠ statusOk then { s with host := .failed (failureOf (rspStatus rsp)) }
    else if s.delivered.length = r.requests.length then
      { s with host := .done, output := r.outputOf s.delivered }
    else s
  | _ => s

end Sys2Proof.Machine
end

