-- ==== Sys2Proof/Machine/Handshake.lean ====
section
/-! DEFINITION. The system's steps (spec/10_state.md section 3, spec/70_reset_and_hazards.md): accept, deliver, reset,
and a clock edge that performs whichever of the two transfers is enabled. -/

namespace Sys2Proof.Machine

/-- The request leaves the port and enters the host's record. -/
def recordAccepted (q : Request) (s : State) : State :=
  { s with offered := none, accepted := s.accepted ++ [q] }

/-- Step `accept(q)`: the request is consumed whole and executed at once (R22). -/
def accept (q : Request) (s : State) : Host.Outcome State Fault Refusal :=
  exec (decode q) (recordAccepted q s)

/-- Step `deliver`: the host receives `RSP`, `RSP_VALID <- 0` (R23). -/
def deliver (rsp : Response) (s : State) : State :=
  receive rsp { s with pending := none, delivered := s.delivered ++ [rsp] }

/-- Step `reset`: a pending response is lost, no transfer happens, and the host must offer its request again; a call
in progress begins again with its first frame (R88, R105, R110; log 3, log 4). -/
def resetBlock (s : State) : State :=
  { s with pending := none, offered := none, accepted := [], delivered := [] }

/-- A rising edge with `rst = 0`: `req_ready = 1` only where nothing is pending, so at most one transfer happens (R22,
R23). -/
def clockEdge (rspReady : Bool) (s : State) : Host.Outcome State Fault Refusal :=
  match s.pending with
  | some rsp => if rspReady then .next (deliver rsp s) else .next s
  | none =>
    match s.offered with
    | some q => accept q s
    | none => .next s

/-- One step: the host's next move, and the edge it leads to (R13, R105). -/
def systemStep (s : State) : Host.Outcome State Fault Refusal :=
  match hostMove s with
  | (.reset, t) => .next (resetBlock t)
  | (.edge rspReady, t) => clockEdge rspReady t
  | (.start c, t) => .next (startCall Config.trailingPolicy c t)

/-- `exec` as a function from request words to response words (R22): the response the block forms for `q`. -/
def responseTo (q : Request) : Response :=
  match exec (decode q) State.reset with
  | .next t => t.pending.getD 0
  | _ => 0

/-- The state in which the very next step accepts `q`: the request on the port, nothing pending, and a host that only
waits (log 11). -/
def placeRequest (q : Request) (s : State) : State :=
  { s with pending := none, offered := some q, agenda := .wait :: s.agenda }

end Sys2Proof.Machine
end

