-- ==== Sys2Proof/Machine/Step.lean ====
section
/-! DEFINITION. `step`, and where the host's pipeline places an instruction for it. -/

namespace Sys2Proof.Machine

/-- One step of the system (R13, R22, R23, R105). -/
def step (s : State) : Host.Outcome State Fault Refusal := systemStep s

/-- `s` with the instruction whose table word is `w` on the request port, so that the next step accepts and executes
it. A request has no bit above 39 (R37). -/
def State.withFetchWord (s : State) (nbits w : Nat) : State :=
  placeRequest (BitVec.ofNat 40 (w % 2 ^ nbits)) s

end Sys2Proof.Machine
end

