-- ==== Sys2Proof/Machine/Assembly.lean ====
section
/-! DEFINITION. The assembler lines, their text, and the disassembler (R46, R47; D23). Text is a list of characters.
What spacing a line may have beyond the spec's examples is the model's choice (log 17). -/

namespace Sys2Proof.Machine

/-- The mnemonics whose operands are a left and a right sample (R46). -/
inductive PairOp
  | sell
  | selr
  | mid
  | side
  | pack32
  deriving DecidableEq, Repr

/-- The `OP` of such a mnemonic (R42). -/
def PairOp.code : PairOp → OpCode
  | .sell => 0x00#8
  | .selr => 0x01#8
  | .mid => 0x02#8
  | .side => 0x03#8
  | .pack32 => 0x10#8

/-- One assembler line (R46, R47). -/
inductive AsmLine
  | pair (op : PairOp) (left right : Int)      -- SELL, SELR, MID, SIDE, PACK32
  | unpackWord (coded : Data)                  -- UNPACK32 0x004B0019
  | unpackHalves (mid side : Sample)           -- UNPACK32 mid=0x004B, side=0x0019
  | raw (op : OpCode) (data : Data)            -- .req 0xOO_DDDDDDDD
  deriving DecidableEq, Repr

/-- A decimal operand is in `[-32768, 32767]` (R46). -/
def inSampleRange (n : Int) : Bool := -32768 ≤ n && n ≤ 32767

/-- The request word a line stands for; none where a sample is out of range (R46, R47). -/
def AsmLine.request : AsmLine → Option Request
  | .pair op left right =>
    if inSampleRange left && inSampleRange right then
      some (mkRequest op.code (trunc16 right ++ trunc16 left))
    else none
  | .unpackWord coded => some (mkRequest 0x20#8 coded)
  | .unpackHalves mid side => some (mkRequest 0x20#8 (mid ++ side))
  | .raw op data => some (mkRequest op data)

/-- The line a disassembler prints for a request: a legal one by its mnemonic with decimal samples, any other as
`.req` (R47). -/
def disassemble (q : Request) : AsmLine :=
  match decode q with
  | .sell left right => .pair .sell (sext16 left) (sext16 right)
  | .selr left right => .pair .selr (sext16 left) (sext16 right)
  | .mid left right => .pair .mid (sext16 left) (sext16 right)
  | .side left right => .pair .side (sext16 left) (sext16 right)
  | .pack32 left right => .pair .pack32 (sext16 left) (sext16 right)
  | .unpack32 mid side => .unpackWord (mid ++ side)
  | _ => .raw (reqOp q) (reqData q)

/-- A hexadecimal digit, capital letters as the spec prints them. -/
def hexChar (d : Nat) : Char := if d < 10 then Char.ofNat (48 + d) else Char.ofNat (55 + d)

/-- `n` hexadecimal digits of `v`, most significant first. -/
def hexDigits (n v : Nat) : List Char := (List.range n).reverse.map fun k => hexChar (v / 16 ^ k % 16)

/-- A signed decimal integer. -/
def decimal : Int → List Char
  | .ofNat n => Nat.toDigits 10 n
  | .negSucc n => '-' :: Nat.toDigits 10 (n + 1)

/-- The spelling of a mnemonic. -/
def PairOp.text : PairOp → List Char
  | .sell => ['S', 'E', 'L', 'L']
  | .selr => ['S', 'E', 'L', 'R']
  | .mid => ['M', 'I', 'D']
  | .side => ['S', 'I', 'D', 'E']
  | .pack32 => ['P', 'A', 'C', 'K', '3', '2']

/-- The text of a line (R46, R47). -/
def AsmLine.text : AsmLine → List Char
  | .pair op left right => op.text ++ [' '] ++ decimal left ++ [',', ' '] ++ decimal right
  | .unpackWord coded => ['U', 'N', 'P', 'A', 'C', 'K', '3', '2', ' ', '0', 'x'] ++ hexDigits 8 coded.toNat
  | .unpackHalves mid side =>
    ['U', 'N', 'P', 'A', 'C', 'K', '3', '2', ' ', 'm', 'i', 'd', '=', '0', 'x'] ++ hexDigits 4 mid.toNat
      ++ [',', ' ', 's', 'i', 'd', 'e', '=', '0', 'x'] ++ hexDigits 4 side.toNat
  | .raw op data => ['.', 'r', 'e', 'q', ' ', '0', 'x'] ++ hexDigits 2 op.toNat ++ ['_'] ++ hexDigits 8 data.toNat

/-- The text of a response to a request (R46). -/
def responseText (q : Request) (r : Response) : List Char :=
  if rspStatus r = BlockError.invalidMode.status then ['-', '>', ' ', 'I', 'n', 'v', 'a', 'l', 'i', 'd', 'M', 'o', 'd', 'e']
  else if rspStatus r = BlockError.illegalRequest.status then ['-', '>', ' ', 'I', 'l', 'l', 'e', 'g', 'a', 'l', 'R', 'e', 'q', 'u', 'e', 's', 't']
  else
    let low := decimal (sext16 (lowHalf (rspData r)))
    ['-', '>', ' ', 'O', 'K', ' '] ++
      match decode q with
      | .pack32 _ _ => ['0', 'x'] ++ hexDigits 8 (rspData r).toNat
      | .unpack32 _ _ => low ++ [',', ' '] ++ decimal (sext16 (highHalf (rspData r)))
      | _ => low

/-- The value of a digit in a base of at most 16; both letter cases are read (log 17). -/
def digitValue (base : Nat) (c : Char) : Option Nat :=
  let n := c.toNat
  let d := if 48 ≤ n ∧ n ≤ 57 then n - 48 else if 65 ≤ n ∧ n ≤ 70 then n - 55
    else if 97 ≤ n ∧ n ≤ 102 then n - 87 else base
  if d < base then some d else none

/-- The number of a digit string, most significant first, on top of `acc`. -/
def readDigits (base : Nat) : Nat → List Char → Option Nat
  | acc, [] => some acc
  | acc, c :: cs => (digitValue base c).bind fun d => readDigits base (acc * base + d) cs

/-- A signed decimal integer: an optional minus sign and at least one digit. -/
def readDecimal : List Char → Option Int
  | [] => none
  | ['-'] => none
  | '-' :: cs => (readDigits 10 0 cs).map fun n => -(n : Int)
  | cs => (readDigits 10 0 cs).map fun n => (n : Int)

/-- `0x` and exactly `n` hexadecimal digits. -/
def readHex (n : Nat) : List Char → Option Nat
  | '0' :: 'x' :: cs => if cs.length = n then readDigits 16 0 cs else none
  | _ => none

/-- The pieces of a text between commas. -/
def splitCommas : List Char → List (List Char)
  | [] => [[]]
  | c :: cs =>
    match splitCommas cs with
    | [] => [[c]]
    | p :: ps => if c = ',' then [] :: p :: ps else (c :: p) :: ps

/-- The mnemonic of a pair operation, letter for letter. -/
def pairOpOf (w : List Char) : Option PairOp :=
  [PairOp.sell, .selr, .mid, .side, .pack32].find? fun op => op.text == w

/-- A line from its mnemonic and its operand texts. -/
def readOperands (w : List Char) (operands : List (List Char)) : Option AsmLine :=
  match pairOpOf w, operands with
  | some op, [a, b] =>
    (readDecimal a).bind fun left => (readDecimal b).map fun right => .pair op left right
  | some _, _ => none
  | none, [a] =>
    if w = ['U', 'N', 'P', 'A', 'C', 'K', '3', '2'] then (readHex 8 a).map fun v => .unpackWord (BitVec.ofNat 32 v)
    else if w = ['.', 'r', 'e', 'q'] then
      if a[4]? = some '_' then
        (readHex 2 (a.take 4)).bind fun op =>
          (readHex 8 ('0' :: 'x' :: a.drop 5)).map fun d => .raw (BitVec.ofNat 8 op) (BitVec.ofNat 32 d)
      else none
    else none
  | none, [a, b] =>
    if w = ['U', 'N', 'P', 'A', 'C', 'K', '3', '2'] && a.take 4 == ['m', 'i', 'd', '='] && b.take 5 == ['s', 'i', 'd', 'e', '='] then
      (readHex 4 (a.drop 4)).bind fun m =>
        (readHex 4 (b.drop 5)).map fun s => .unpackHalves (BitVec.ofNat 16 m) (BitVec.ofNat 16 s)
    else none
  | none, _ => none

/-- One line of text: what follows `;` is a comment, the mnemonic ends at a space, spaces around operands mean nothing
(R46, R47; log 17). -/
def readLine (text : List Char) : Option AsmLine :=
  let code := (text.takeWhile fun c => c ≠ ';').dropWhile fun c => c = ' '
  readOperands (code.takeWhile fun c => c ≠ ' ')
    (splitCommas ((code.dropWhile fun c => c ≠ ' ').filter fun c => c ≠ ' '))

/-- The request a line of text assembles to (R46, R47). -/
def assemble (text : List Char) : Option Request := (readLine text).bind AsmLine.request

end Sys2Proof.Machine
end

