-- ==== Sys2Proof/Machine/Datapath.lean ====
section
/-! DEFINITION. The block as a bit-level datapath, built as spec/00_scope.md R7 and spec/40_channel_mixer.md R56 say
hardware would build it: 17-bit sums whose lowest bit is dropped, 18-bit sums that are clamped. A second design of the
same function, for a claim that the two are equal; no meaning uses it. -/

namespace Sys2Proof.Machine

/-- `sum17[16:1]` of the 17-bit signed sum (R56). -/
def halfSum17 (left right : Sample) : Sample := (left.signExtend 17 + right.signExtend 17).extractLsb' 1 16

/-- Bits 16:1 of the 17-bit signed difference (R56). -/
def halfDiff17 (left right : Sample) : Sample := (left.signExtend 17 - right.signExtend 17).extractLsb' 1 16

/-- An 18-bit signed value clamped to 16 bits (R10, R66 "18 bits signed hold them"). -/
def clamp18 (v : BitVec 18) : Sample :=
  if (32767#18).slt v then 0x7FFF#16 else if v.slt (-32768#18) then 0x8000#16 else v.extractLsb' 0 16

/-- The datapath: the response word for a request word, by `UNIT` and `MODE` (R38, R41 to R44). -/
def datapath (q : Request) : Response :=
  let lo := lowHalf (reqData q)
  let hi := highHalf (reqData q)
  if reqUnit q = 0x0#4 then
    if reqMode q = 0x0#4 then mkResponse 0x00#8 (0x0000#16 ++ lo)
    else if reqMode q = 0x1#4 then mkResponse 0x00#8 (0x0000#16 ++ hi)
    else if reqMode q = 0x2#4 then mkResponse 0x00#8 (0x0000#16 ++ halfSum17 lo hi)
    else if reqMode q = 0x3#4 then mkResponse 0x00#8 (0x0000#16 ++ halfDiff17 lo hi)
    else mkResponse 0x01#8 0x00000000#32
  else if reqUnit q = 0x1#4 ∧ reqMode q = 0x0#4 then mkResponse 0x00#8 (halfSum17 lo hi ++ halfDiff17 lo hi)
  else if reqUnit q = 0x2#4 ∧ reqMode q = 0x0#4 then
    mkResponse 0x00#8 (clamp18 (hi.zeroExtend 18 - lo.signExtend 18) ++ clamp18 (hi.zeroExtend 18 + lo.signExtend 18))
  else mkResponse 0x02#8 0x00000000#32

end Sys2Proof.Machine
end

