-- ==== Sys2Proof/Safety.lean ====
section
/-! DEFINITION. What a sound state and a safe run are: the order law of responses (R23, R31), the coherence of a
converter call in progress (R81, R87, R88), and a run without an error response (R90, R100). -/

namespace Sys2Proof.Machine

/-- The sequence law: the responses delivered, and then the one pending, are the responses to the requests accepted,
element by element, in the same order (R23). -/
def State.orderly (s : State) : Prop := s.accepted.map responseTo = s.delivered ++ s.pending.toList

/-- The call `r` is in order in `s`: it has offered a beginning of its frames in order (R81, R88), it is not over (R90),
it has seen no error response (R87), and none of its requests would be answered by one. -/
structure Run.coherent (r : Run) (s : State) : Prop where
  inOrder  : s.accepted ++ s.offered.toList <+: r.requests
  notOver  : s.delivered.length < r.requests.length
  noError  : ∀ d ∈ s.delivered, rspStatus d = statusOk
  allLegal : ∀ q ∈ r.requests, rspStatus (responseTo q) = statusOk

/-- A call in progress is in order, and no call has failed by an error response, since no request of a converter is
answered by one (R82: "the block's InvalidMode response is never seen"). -/
def State.callCoherent (s : State) : Prop :=
  (∀ r, s.host = .running r → r.coherent s) ∧ ∀ st, s.host ≠ .failed (.response st)

/-- The invariant every step keeps. -/
def State.Inv (s : State) : Prop := s.orderly ∧ s.callCoherent

/-- No error response is pending or has been delivered, and no call has failed: a claim about a converter run takes
"every response had `STATUS = 0x00`" as part of its end (R90, R100). -/
def State.noError (s : State) : Prop :=
  (∀ d ∈ s.delivered ++ s.pending.toList, rspStatus d = statusOk) ∧ ∀ f, s.host ≠ .failed f

end Sys2Proof.Machine
end

