-- ==== Sys2Proof/Certificates/Slice0/Obligations.lean ====
section
/-! DEFINITION. The statements for the provers. Each docstring names the rules it formalises. -/

open Sys2Proof Sys2Proof.Machine

/-- Every row's encoding string keeps every operand bit and is decoded by its own row (R42 to R44). -/
def Obligations.DecodeOfEncodeIsIdentity : Prop :=
  ∀ i : Instr, i.wf = true → decode (encode i) = i

/-- Decoding is total on the 2^40 words and loses nothing (R45, "a decoder must be total" R44). -/
def Obligations.EncodeOfDecodeIsIdentity : Prop :=
  ∀ q : Request, (decode q).wf = true ∧ encode (decode q) = q

/-- R45: decoding is total and depends on `OP` alone, and the table's rows partition the values of `OP`. -/
def Obligations.DecodingIsTotalByOpAlone : Prop :=
  (∀ q : Request, (opcodeRows.filter fun r => r.selects q).map OpcodeRow.row = [(decode q).row]) ∧
  (∀ (op : OpCode) (d d' : Data),
    rspStatus (responseTo (mkRequest op d)) = rspStatus (responseTo (mkRequest op d')) ∧
    (rspStatus (responseTo (mkRequest op d)) ≠ 0x00#8 →
      responseTo (mkRequest op d) = responseTo (mkRequest op d'))) ∧
  (∀ d : Data,
    ((List.range 256).countP fun n => rspStatus (responseTo (mkRequest (BitVec.ofNat 8 n) d)) == 0x00#8) = 6 ∧
    ((List.range 256).countP fun n => rspStatus (responseTo (mkRequest (BitVec.ofNat 8 n) d)) == 0x01#8) = 12 ∧
    ((List.range 256).countP fun n => rspStatus (responseTo (mkRequest (BitVec.ofNat 8 n) d)) == 0x02#8) = 238)

/-- Words written out from the encoding strings decode to the instruction they stand for (R42, R43, R44). -/
def Obligations.SpecWordsDecodeAsListed : Prop :=
  decode 0b0000000000000000001100100000000001100100#40 = .sell 100#16 50#16 ∧
  decode 0b0000001100000000001100100000000001100100#40 = .side 100#16 50#16 ∧
  decode 0b0001000000000000001100100000000001100100#40 = .pack32 100#16 50#16 ∧
  decode 0b0010000000000000010010110000000000011001#40 = .unpack32 75#16 25#16 ∧
  decode 0b0000010000000000001100100000000001100100#40 = .invalidMode04_07 0x04#8 0x00320064#32 ∧
  decode 0b0001001100000000000000000000000000000001#40 = .illegal12_13 0x13#8 1#32

/-- SELL answers the left sample, bit for bit (R50). -/
def Obligations.SellCopiesLeftBitForBit : Prop :=
  ∀ (left right : Sample) (s : State),
    decode (mkRequest 0x00#8 (right ++ left)) = .sell left right ∧
    exec (.sell left right) s = .next { s with pending := some (mkResponse 0x00#8 (0x0000#16 ++ left)) }

/-- SELR answers the right sample, bit for bit (R51). -/
def Obligations.SelrCopiesRightBitForBit : Prop :=
  ∀ (left right : Sample) (s : State),
    decode (mkRequest 0x01#8 (right ++ left)) = .selr left right ∧
    exec (.selr left right) s = .next { s with pending := some (mkResponse 0x00#8 (0x0000#16 ++ right)) }

/-- MID answers the floor half-sum at full precision (R52). -/
def Obligations.MidAnswersFloorHalfSum : Prop :=
  ∀ (left right : Sample) (s : State),
    decode (mkRequest 0x02#8 (right ++ left)) = .mid left right ∧ ∃ v : Sample,
    exec (.mid left right) s = .next { s with pending := some (mkResponse 0x00#8 (0x0000#16 ++ v)) } ∧
    2 * v.toInt ≤ left.toInt + right.toInt ∧ left.toInt + right.toInt < 2 * v.toInt + 2

/-- SIDE answers the floor half-difference at full precision (R53). -/
def Obligations.SideAnswersFloorHalfDifference : Prop :=
  ∀ (left right : Sample) (s : State),
    decode (mkRequest 0x03#8 (right ++ left)) = .side left right ∧ ∃ v : Sample,
    exec (.side left right) s = .next { s with pending := some (mkResponse 0x00#8 (0x0000#16 ++ v)) } ∧
    2 * v.toInt ≤ left.toInt - right.toInt ∧ left.toInt - right.toInt < 2 * v.toInt + 2

/-- PACK32 answers the floor half-sum above the floor half-difference (R60). -/
def Obligations.Pack32AnswersFloorHalvesSideBySide : Prop :=
  ∀ (left right : Sample) (s : State),
    decode (mkRequest 0x10#8 (right ++ left)) = .pack32 left right ∧ ∃ m d : Sample,
    exec (.pack32 left right) s = .next { s with pending := some (mkResponse 0x00#8 (m ++ d)) } ∧
    (2 * m.toInt ≤ left.toInt + right.toInt ∧ left.toInt + right.toInt < 2 * m.toInt + 2) ∧
    (2 * d.toInt ≤ left.toInt - right.toInt ∧ left.toInt - right.toInt < 2 * d.toInt + 2)

/-- UNPACK32 answers the saturated sum and difference of the unsigned mid and the signed side (R66). -/
def Obligations.Unpack32AnswersSaturatedSumAndDifference : Prop :=
  ∀ (mid side : Sample) (s : State),
    decode (mkRequest 0x20#8 (mid ++ side)) = .unpack32 mid side ∧ ∃ l r : Sample,
    exec (.unpack32 mid side) s = .next { s with pending := some (mkResponse 0x00#8 (r ++ l)) } ∧
    l.toInt = max (-32768) (min 32767 ((mid.toNat : Int) + side.toInt)) ∧
    r.toInt = max (-32768) (min 32767 ((mid.toNat : Int) - side.toInt))

/-- Both rows of the mixer's bad tags "execute `raise InvalidMode`" (R54). -/
def Obligations.InvalidModeRowsAnswerInvalidMode : Prop :=
  ∀ (op : OpCode) (data : Data) (s : State),
    exec (.invalidMode04_07 op data) s = .next { s with pending := some 0x0100000000#40 } ∧
    exec (.invalidMode08_0F op data) s = .next { s with pending := some 0x0100000000#40 }

/-- R44: each unassigned `OP` "executes `raise IllegalRequest`". -/
def Obligations.IllegalRowsAnswerIllegalRequest : Prop :=
  ∀ (op : OpCode) (data : Data) (s : State),
    exec (.illegal11_11 data) s = .next { s with pending := some 0x0200000000#40 } ∧
    exec (.illegal12_13 op data) s = .next { s with pending := some 0x0200000000#40 } ∧
    exec (.illegal14_17 op data) s = .next { s with pending := some 0x0200000000#40 } ∧
    exec (.illegal18_1F op data) s = .next { s with pending := some 0x0200000000#40 } ∧
    exec (.illegal21_21 data) s = .next { s with pending := some 0x0200000000#40 } ∧
    exec (.illegal22_23 op data) s = .next { s with pending := some 0x0200000000#40 } ∧
    exec (.illegal24_27 op data) s = .next { s with pending := some 0x0200000000#40 } ∧
    exec (.illegal28_2F op data) s = .next { s with pending := some 0x0200000000#40 } ∧
    exec (.illegal30_3F op data) s = .next { s with pending := some 0x0200000000#40 } ∧
    exec (.illegal40_7F op data) s = .next { s with pending := some 0x0200000000#40 } ∧
    exec (.illegal80_FF op data) s = .next { s with pending := some 0x0200000000#40 }

/-- A mixer request with MODE 4 to 15 is answered by InvalidMode, whatever DATA holds (R43, R54). -/
def Obligations.TagsOutsideTheFourAnswerInvalidMode : Prop :=
  ∀ (q : Request) (s : State), reqUnit q = 0x0#4 → 4 ≤ (reqMode q).toNat →
    exec (decode q) s = .next { s with pending := some 0x0100000000#40 }

/-- A request whose OP names no operation is answered by IllegalRequest, whatever DATA holds (R44). -/
def Obligations.UnassignedOpsAnswerIllegalRequest : Prop :=
  ∀ (q : Request) (s : State),
    ((reqUnit q = 0x1#4 ∨ reqUnit q = 0x2#4) ∧ reqMode q ≠ 0x0#4) ∨ 3 ≤ (reqUnit q).toNat →
    exec (decode q) s = .next { s with pending := some 0x0200000000#40 }

/-- No operation's result depends on any earlier operation, and no state is written besides the response (R14, R29, R31, R107). -/
def Obligations.ResponseIsAFunctionOfTheRequest : Prop :=
  ∀ q : Request, ∃ rsp : Response, ∀ s : State,
    exec (decode q) s = .next { s with pending := some rsp }

/-- Two designs of one function: the specification's and the hardware form R7 and R56 derive. -/
def Obligations.DatapathComputesEveryResponse : Prop :=
  ∀ q : Request, responseTo q = datapath q

/-- fdiv2(n) is the greatest integer q with 2q <= n, and in hardware an arithmetic shift (R7, R56). -/
def Obligations.FdivTwoIsTheGreatestFloorHalf : Prop :=
  (∀ n : Int, 2 * fdiv2 n ≤ n ∧ (∀ q : Int, 2 * q ≤ n → q ≤ fdiv2 n) ∧
    fdiv2 n = if n % 2 = 1 ∧ n < 0 then n.tdiv 2 - 1 else n.tdiv 2) ∧
  (∀ (w : Nat) (v : BitVec w), fdiv2 v.toInt = (v.sshiftRight 1).toInt)

/-- Truncation, sign extension and saturation to 16 bits (R8, R9, R10). -/
def Obligations.NarrowingsAndExtension : Prop :=
  (∀ n : Int, ((trunc16 n).toNat : Int) = n % 65536 ∧ (-32768 ≤ n ∧ n ≤ 32767 → (trunc16 n).toInt = n)) ∧
  (∀ t : Sample, sext16 t = if t.toNat ≤ 32767 then (t.toNat : Int) else (t.toNat : Int) - 65536) ∧
  (∀ n : Int, sat16 n = if n < -32768 then -32768 else if n > 32767 then 32767 else n)

/-- No result of select_or_combine leaves the samples' range, at width 16 or 32 (R55, R59, R49, R62). -/
def Obligations.MixerNeverOverflows : Prop :=
  ∀ mode : MixMode,
    (∀ left right : Sample,
      -32768 ≤ selectOrCombine left.toInt right.toInt mode ∧ selectOrCombine left.toInt right.toInt mode ≤ 32767 ∧
      sat16 (selectOrCombine left.toInt right.toInt mode) = selectOrCombine left.toInt right.toInt mode ∧
      (trunc16 (selectOrCombine left.toInt right.toInt mode)).toInt = selectOrCombine left.toInt right.toInt mode) ∧
    (∀ left right : BitVec 32,
      -2 ^ 31 ≤ selectOrCombine left.toInt right.toInt mode ∧
      selectOrCombine left.toInt right.toInt mode ≤ 2 ^ 31 - 1)

/-- The identities between MID, SIDE and the pair (R57). -/
def Obligations.MidAndSideDetermineThePairUpToParity : Prop :=
  ∀ f : Data,
    let left := (lowHalf f).toInt
    let right := (highHalf f).toInt
    let p := (left + right) % 2
    let m := (lowHalf (rspData (responseTo (mkRequest 0x02#8 f)))).toInt
    let d := (lowHalf (rspData (responseTo (mkRequest 0x03#8 f)))).toInt
    m + d = left - p ∧ m - d = right ∧ 2 * m + p = left + right ∧ 2 * d + p = left - right

/-- R58: the two selections together hold the whole frame. -/
def Obligations.SelectionsTogetherHoldTheFrame : Prop :=
  ∀ f : Data,
    lowHalf (rspData (responseTo (mkRequest 0x01#8 f))) ++ lowHalf (rspData (responseTo (mkRequest 0x00#8 f))) = f

/-- PACK32 is MID and SIDE side by side (R61). -/
def Obligations.PackIsMidAboveSide : Prop :=
  ∀ f : Data,
    highHalf (rspData (responseTo (mkRequest 0x10#8 f))) = lowHalf (rspData (responseTo (mkRequest 0x02#8 f))) ∧
    lowHalf (rspData (responseTo (mkRequest 0x10#8 f))) = lowHalf (rspData (responseTo (mkRequest 0x03#8 f)))

/-- Two frames have one code exactly when right agrees and left agrees up to the parity of the sum (R63). -/
def Obligations.PackLosesExactlyTheParity : Prop :=
  ∀ f g : Data,
    rspData (responseTo (mkRequest 0x10#8 f)) = rspData (responseTo (mkRequest 0x10#8 g)) ↔
      highHalf f = highHalf g ∧
      (lowHalf f).toInt - ((lowHalf f).toInt + (highHalf f).toInt) % 2
        = (lowHalf g).toInt - ((lowHalf g).toInt + (highHalf g).toInt) % 2

/-- Which coded words PACK32 produces (R63). -/
def Obligations.ImageOfPack : Prop :=
  ∀ c : Data,
    (∃ f : Data, rspData (responseTo (mkRequest 0x10#8 f)) = c) ↔
      let m := (highHalf c).toInt
      let d := (lowHalf c).toInt
      (-32768 ≤ m - d ∧ m - d ≤ 32767) ∧
      ((-32768 ≤ m + d ∧ m + d ≤ 32767) ∨ (-32768 ≤ m + d + 1 ∧ m + d + 1 ≤ 32767))

/-- When UNPACK32 clamps (R69, R72). -/
def Obligations.OnlyTheUpperClampFires : Prop :=
  ∀ c : Data,
    let mid : Int := (highHalf c).toNat
    let side := (lowHalf c).toInt
    let left := (lowHalf (rspData (responseTo (mkRequest 0x20#8 c)))).toInt
    let right := (highHalf (rspData (responseTo (mkRequest 0x20#8 c)))).toInt
    (left ≠ mid + side ↔ mid + side > 32767) ∧ (mid + side > 32767 → left = 32767) ∧
    (right ≠ mid - side ↔ mid - side > 32767) ∧ (mid - side > 32767 → right = 32767) ∧
    (32768 ≤ mid → left ≠ mid + side ∨ right ≠ mid - side) ∧
    (left ≠ mid + side ∧ right ≠ mid - side ↔ 32768 - mid ≤ side ∧ side ≤ mid - 32768)

/-- What UNPACK32 makes of what PACK32 made (R71). -/
def Obligations.PackThenUnpackRoundTrip : Prop :=
  ∀ f : Data,
    let left := (lowHalf f).toInt
    let right := (highHalf f).toInt
    let p := (left + right) % 2
    let out := rspData (responseTo (mkRequest 0x20#8 (rspData (responseTo (mkRequest 0x10#8 f)))))
    (left + right ≥ 0 → (lowHalf out).toInt = left - p ∧ highHalf out = highHalf f) ∧
    (left + right < 0 → (lowHalf out).toInt = 32767 ∧ (highHalf out).toInt = 32767) ∧
    (out = f ↔ p = 0 ∧ left + right ≥ 0)

/-- A step with a request on the port and nothing pending is exec of the decoded request (R22, R34).
The host's move and the record of the request are the model's own (log 2, log 4). -/
def Obligations.StepRunsTheDecodedRequest : Prop :=
  ∀ (s t : State) (ready : Bool) (q : Request), hostMove s = (.edge ready, t) → t.pending = none → t.offered = some q →
    step s = exec (decode q) { t with offered := none, accepted := t.accepted ++ [q] }

/-- The model's own entry for one instruction (log 11): the next step accepts and executes exactly the word placed.
The record of the request is the model's own (log 4). -/
def Obligations.FetchedWordRunsNext : Prop :=
  ∀ (s : State) (w : Nat), w < 2 ^ 40 → ∃ i : Instr, decodeTableWord 40 w = some i ∧
    step (s.withFetchWord 40 w) =
      exec i { s with pending := none, offered := none, accepted := s.accepted ++ [BitVec.ofNat 40 w] }

/-- A request on the port is accepted exactly when no response is pending (R22).
The agenda and the record are the model's own (log 2, log 4). -/
def Obligations.AcceptExactlyWhenNothingIsPending : Prop :=
  ∀ (s : State) (q : Request) (rest : List Event), s.agenda = .wait :: rest → s.offered = some q →
    (s.pending = none → step s = .next { s with
      pending := some (responseTo q), offered := none, agenda := rest, accepted := s.accepted ++ [q] }) ∧
    (∀ rsp, s.pending = some rsp → step s = .next { s with agenda := rest })

/-- Taking a response delivers it exactly when one is pending (R23, R88).
The agenda and the record are the model's own (log 2, log 4). -/
def Obligations.DeliverExactlyWhenPending : Prop :=
  ∀ s : State,
    (∀ (rsp : Response) (rest : List Event), (∀ r, s.host ≠ .running r) → s.agenda = .take :: rest →
      s.pending = some rsp →
      step s = .next { s with pending := none, agenda := rest, delivered := s.delivered ++ [rsp] }) ∧
    (∀ rest : List Event, (∀ r, s.host ≠ .running r) → s.agenda = .take :: rest → s.pending = none →
      s.offered = none → step s = .next { s with agenda := rest }) ∧
    (∀ (r : Run) (rsp : Response), s.host = .running r → s.agenda = [] → s.pending = some rsp →
      ∃ t, step s = .next t ∧ t.pending = none ∧ t.delivered = s.delivered ++ [rsp] ∧ t.offered = s.offered ∧
        t.accepted = s.accepted)

/-- R105, R110. The agenda, that the held request is withdrawn and that the records start anew are the model's own (log 2, log 3, log 4). -/
def Obligations.ResetLosesThePendingResponse : Prop :=
  ∀ (s : State) (rest : List Event), s.agenda = .reset :: rest →
    step s = .next { s with pending := none, offered := none, agenda := rest, accepted := [], delivered := [] }

/-- The reset state has nothing pending and accepts any request (R24, R106).
The fields other than RSP_VALID have the model's reset values (log 6). -/
def Obligations.ResetStateAcceptsAnyRequest : Prop :=
  State.reset.pending = none ∧
  ∀ q : Request, ∃ t, step { State.reset with offered := some q } = .next t ∧
    t.pending = some (responseTo q) ∧ t.accepted = [q]

/-- R100: the machine has no fault state at all; R22: no request makes the block stuck.
What a step is, is the model's own (log 2). -/
def Obligations.EveryStepGoesOn : Prop :=
  ∀ s : State, ∃ t : State, step s = .next t

/-- Every step keeps the order law and the coherence of a call in progress (R23, R31, R81, R87, R88).
The records the order law is about are the model's own (log 4). -/
def Obligations.StepKeepsTheInvariant : Prop :=
  ∀ s t : State, s.Inv → step s = .next t → t.Inv

/-- The reset state has the invariant (R23, R24).
The records and the idle host at reset are the model's own (log 4, log 6). -/
def Obligations.ResetHasTheInvariant : Prop :=
  State.reset.Inv

/-- R23: the sequence of delivered responses is exec of the sequence of accepted requests, none lost, duplicated or reordered.
The records and the run from an idle host are the model's own (log 2, log 4, log 6). -/
def Obligations.ResponsesComeInRequestOrder : Prop :=
  ∀ (agenda : List Event) (n : Nat), ∃ t : State,
    Host.Core.run Sys2Proof.core n { State.reset with agenda := agenda } = .next t ∧
    t.accepted.map responseTo = t.delivered ++ t.pending.toList

/-- R96: an error is not latched; the next request, legal or not, is executed normally.
The agenda and the records are the model's own (log 2, log 4). -/
def Obligations.ErrorIsNotLatched : Prop :=
  ∀ (s : State) (rsp : Response) (q : Request), (∀ r, s.host ≠ .running r) → s.pending = some rsp →
    s.offered = none → s.agenda = [.take, .offer q] →
    Host.Core.run Sys2Proof.core 2 s = .next { s with
      pending := some (responseTo q), agenda := [], accepted := s.accepted ++ [q],
      delivered := s.delivered ++ [rsp] }

/-- A pending response stays, unchanged, for as long as the host only waits (R88, R103, R108).
The agenda is the model's own (log 2). -/
def Obligations.WaitingHostLosesNothing : Prop :=
  ∀ (s : State) (rsp : Response), s.pending = some rsp →
    (∀ rest, s.agenda = .wait :: rest → step s = .next { s with agenda := rest }) ∧
    ((∀ r, s.host ≠ .running r) → s.agenda = [] → step s = .next s)

/-- The output stream changes only by a call that ends in success (R87, R90, R99).
The record of responses and the one output for all calls are the model's own (log 4, log 23). -/
def Obligations.OutputChangesOnlyWhenACallIsDone : Prop :=
  ∀ s t : State, s.Inv → step s = .next t → t.output ≠ s.output →
    t.host = .done ∧ ∀ d ∈ t.delivered, rspStatus d = 0x00#8

/-- No request a converter makes is answered by an error (R48, R82, R90). -/
def Obligations.ConverterRequestsAreNeverErrors : Prop :=
  ∀ (p : TrailingPolicy) (c : Call) (r : Run), planCall p c = .ok (.drive r) →
    ∀ q ∈ r.requests, rspStatus (responseTo q) = 0x00#8

/-- A converter call the host keeps serving ends after one accept and one deliver per frame, with its output written (R81, R87, R89, R90, R109).
The number of steps, a host that goes on serving, the records emptied at the start and a finite LAT are the model's own
(log 1, log 2, log 4, log 20); so is the one output for all calls (log 23). -/
def Obligations.ConverterCallCompletes : Prop :=
  ∀ (s : State) (c : Call) (r : Run), (∀ r', s.host ≠ .running r') → s.pending = none → s.offered = none →
    s.agenda = [.call c] → planCall Config.trailingPolicy c = .ok (.drive r) →
    Host.Core.run Sys2Proof.core (1 + 2 * r.requests.length) s = .next { s with
      agenda := [], accepted := r.requests, delivered := r.requests.map responseTo, host := .done
      output := r.outputOf (r.requests.map responseTo) }

/-- A reset in the middle of a call restarts it from its first frame, with the same output (R88, R90, R105, R106).
The number of steps, the withdrawn request and the emptied records are the model's own (log 2, log 3, log 4); so is
the one output for all calls (log 23). -/
def Obligations.ResetRestartsTheCall : Prop :=
  ∀ (s : State) (r : Run), s.host = .running r → r.requests ≠ [] →
    (∀ q ∈ r.requests, rspStatus (responseTo q) = 0x00#8) → s.agenda = [.reset] →
    Host.Core.run Sys2Proof.core (1 + 2 * r.requests.length) s = .next { s with
      pending := none, offered := none, agenda := [], accepted := r.requests
      delivered := r.requests.map responseTo, host := .done
      output := r.outputOf (r.requests.map responseTo) }

/-- A call that fails a check offers no request and writes nothing (R87, R99).
The step of its own, the emptied records and the one output for all calls are the model's own (log 4, log 20, log 23). -/
def Obligations.FailedCheckWritesNothing : Prop :=
  ∀ (s : State) (c : Call) (rest : List Event) (e : HostError), (∀ r, s.host ≠ .running r) → s.pending = none →
    s.offered = none → s.agenda = .call c :: rest → planCall Config.trailingPolicy c = .error e →
    step s = .next { s with agenda := rest, accepted := [], delivered := [], host := .failed (.error e) }

/-- A converter that uses the block makes one request of each frame, in order (R48, R81, R82, R84, R85, R86).
The numbering of the mode selector is the model's own (log 21). -/
def Obligations.PlanHasOneRequestPerFrame : Prop :=
  ∀ (p : TrailingPolicy) (input : List Byte) (h : Header), openInput input = .ok h → h.dataSize % 4 = 0 →
    let requests (op : OpCode) := (List.range (h.dataSize / 4)).map fun i =>
      mkRequest op (BitVec.ofNat 32 (memRead input (44 + i * 4) 4))
    (h.channelCount = 2 → h.bitsPerSample = 16 →
      planCall p (.stereoToMono input 0x0#4) = .ok (.drive ⟨requests 0x00#8, 2, 1, h.sampleRate, 16⟩) ∧
      planCall p (.stereoToMono input 0x1#4) = .ok (.drive ⟨requests 0x01#8, 2, 1, h.sampleRate, 16⟩) ∧
      planCall p (.stereoToMono input 0x2#4) = .ok (.drive ⟨requests 0x02#8, 2, 1, h.sampleRate, 16⟩) ∧
      planCall p (.stereoToMono input 0x3#4) = .ok (.drive ⟨requests 0x03#8, 2, 1, h.sampleRate, 16⟩) ∧
      planCall p (.stereoToCoded32 input) = .ok (.drive ⟨requests 0x10#8, 4, 1, h.sampleRate, 32⟩)) ∧
    (h.channelCount = 1 → h.bitsPerSample = 32 →
      planCall p (.coded32ToStereo input) = .ok (.drive ⟨requests 0x20#8, 4, 2, h.sampleRate, 16⟩))

/-- Each converter refuses the channel counts and depths it does not take (R82, R83, R84, R85, R94, R97).
The place of the short-payload check and the numbering of the mode selector are the model's own (log 10, log 21). -/
def Obligations.ConvertersRejectTheWrongFormat : Prop :=
  ∀ (p : TrailingPolicy) (input : List Byte),
    (∀ tag : ModeTag, 4 ≤ tag.toNat → planCall p (.stereoToMono input tag) = .error .invalidModeError) ∧
    (∀ h : Header, openInput input = .ok h →
      (h.channelCount ≠ 2 →
        (∀ tag : ModeTag, tag.toNat < 4 → planCall p (.stereoToMono input tag) = .error .notStereoError) ∧
        planCall p (.stereoToCoded32 input) = .error .notStereoError) ∧
      (h.channelCount = 2 → h.bitsPerSample ≠ 16 →
        planCall p (.stereoToCoded32 input) = .error .unsupportedFormatError) ∧
      (h.channelCount ≠ 1 →
        planCall p (.coded32ToStereo input) = .error .notMonoError ∧
        (∀ (other : List Byte) (h' : Header), openInput other = .ok h' →
          planCall p (.monoPairToStereo input other) = .error .notMonoError ∧
          planCall p (.monoPairToStereo other input) = .error .notMonoError)) ∧
      (h.channelCount = 1 → h.bitsPerSample ≠ 32 →
        planCall p (.coded32ToStereo input) = .error .unsupportedFormatError))

/-- mono_pair_to_stereo names the first field in which its inputs differ (R83, R94, R97).
The place of the short-payload check is the model's own (log 10). -/
def Obligations.MonoPairMismatchIsNamed : Prop :=
  ∀ (p : TrailingPolicy) (a b : List Byte) (h h' : Header), openInput a = .ok h → openInput b = .ok h' →
    h.channelCount = 1 → h'.channelCount = 1 →
    (h.sampleRate ≠ h'.sampleRate →
      planCall p (.monoPairToStereo a b) = .error (.mismatchError .sampleRate)) ∧
    (h.sampleRate = h'.sampleRate → h.bitsPerSample ≠ h'.bitsPerSample →
      planCall p (.monoPairToStereo a b) = .error (.mismatchError .bitsPerSample)) ∧
    (h.sampleRate = h'.sampleRate → h.bitsPerSample = h'.bitsPerSample → h.dataSize ≠ h'.dataSize →
      planCall p (.monoPairToStereo a b) = .error (.mismatchError .dataSize))

/-- What TRAILING_POLICY does with a partial last frame, in each of the four converters (R81, R82, R83, R84, R85, R91).
The numbering of the mode selector, and what a depth that is no multiple of 8 means to mono_pair_to_stereo, are the
model's own (log 21, log 22). -/
def Obligations.PartialFrameIsRefusedOrDropped : Prop :=
  ∀ (input : List Byte) (h : Header), openInput input = .ok h →
    let requests (op : OpCode) := (List.range (h.dataSize / 4)).map fun i =>
      mkRequest op (BitVec.ofNat 32 (memRead input (44 + i * 4) 4))
    let left (i : Nat) := (BitVec.ofNat 32 (memRead input (44 + i * 8) 4)).toInt
    let right (i : Nat) := (BitVec.ofNat 32 (memRead input (48 + i * 8) 4)).toInt
    (h.dataSize % 4 ≠ 0 → h.channelCount = 2 → h.bitsPerSample = 16 →
      (∀ tag : ModeTag, tag.toNat < 4 →
        planCall .refuse (.stereoToMono input tag) = .error .formatError ∧
        planCall .drop (.stereoToMono input tag) = .ok (.drive ⟨requests (0x0#4 ++ tag), 2, 1, h.sampleRate, 16⟩)) ∧
      planCall .refuse (.stereoToCoded32 input) = .error .formatError ∧
      planCall .drop (.stereoToCoded32 input) = .ok (.drive ⟨requests 0x10#8, 4, 1, h.sampleRate, 32⟩)) ∧
    (h.dataSize % 4 ≠ 0 → h.channelCount = 1 → h.bitsPerSample = 32 →
      planCall .refuse (.coded32ToStereo input) = .error .formatError ∧
      planCall .drop (.coded32ToStereo input) = .ok (.drive ⟨requests 0x20#8, 4, 2, h.sampleRate, 16⟩)) ∧
    (h.dataSize % 8 ≠ 0 → h.channelCount = 2 → h.bitsPerSample = 32 → ∀ tag : ModeTag, tag.toNat < 4 →
      planCall .refuse (.stereoToMono input tag) = .error .formatError ∧
      planCall .drop (.stereoToMono input tag) =
        .ok (.write (outputStream 1 h.sampleRate 32 ((List.range (h.dataSize / 8)).flatMap fun i =>
          leBytes 4 (BitVec.ofInt 32 (
            if tag = 0x0#4 then left i else if tag = 0x1#4 then right i
            else if tag = 0x2#4 then fdiv2 (left i + right i) else fdiv2 (left i - right i))).toNat)))) ∧
    (∀ (other : List Byte) (h' : Header), openInput other = .ok h' → h.channelCount = 1 → h'.channelCount = 1 →
      h.sampleRate = h'.sampleRate → h.bitsPerSample = h'.bitsPerSample → h.dataSize = h'.dataSize →
      let b := h.bitsPerSample / 8
      h.dataSize % b ≠ 0 →
      planCall .refuse (.monoPairToStereo input other) = .error .formatError ∧
      planCall .drop (.monoPairToStereo input other) =
        .ok (.write (outputStream 2 h.sampleRate h.bitsPerSample ((List.range (h.dataSize / b)).flatMap fun i =>
          streamBytes input (44 + i * b) b ++ streamBytes other (44 + i * b) b))))

/-- R78: write_header followed by read_header returns the inputs; R76: the formulas. The total size is the spec's own from general knowledge (R79, log 14) and what does not fit leaves its low bits (log 15).
For a depth that is no multiple of 8 the quotient of R76 is rounded down, the model's own choice (log 22). -/
def Obligations.WrittenHeaderReadsBack : Prop :=
  ∀ (c rate bits n : Nat) (rest : List Byte), c < 2 ^ 16 → rate < 2 ^ 32 → bits < 2 ^ 16 → n < 2 ^ 32 →
    (writeHeader c rate bits n).length = 44 ∧
    readHeader (writeHeader c rate bits n ++ rest) = .ok {
      totalSize := (36 + n) % 2 ^ 32, audioFormat := 1, channelCount := c, sampleRate := rate
      byteRate := rate * (c * (bits / 8)) % 2 ^ 32, blockAlign := c * (bits / 8) % 2 ^ 16
      bitsPerSample := bits, dataSize := n }

/-- DATA is the frame's four bytes, the first in stream order least significant (R25, R26). -/
def Obligations.FrameWordIsLittleEndian : Prop :=
  ∀ b0 b1 b2 b3 : Byte,
    leNat [b0, b1, b2, b3] = b0.toNat + 256 * b1.toNat + 65536 * b2.toNat + 16777216 * b3.toNat ∧
    (BitVec.ofNat 32 (leNat [b0, b1, b2, b3]) : Data) = b3 ++ (b2 ++ (b1 ++ b0)) ∧
    leBytes 4 (BitVec.ofNat 32 (leNat [b0, b1, b2, b3])).toNat = [b0, b1, b2, b3]

/-- The bytes of result i stand at output frame position i (R27, R64, R73, R81, R89). -/
def Obligations.ResponseBytesStandAtTheirFrame : Prop :=
  ∀ (g : Nat) (rs : List Response) (i : Nat) (h : i < rs.length),
    streamBytes (resultPayload g rs) (i * g) g = leBytes g (rspData rs[i]).toNat

/-- Splitting a 16-bit stereo file into left and right and merging them gives the file back (R58, R82, R83, R86, 95_test_vectors.md S3).
The numbering of the mode selector is the model's own (log 21). -/
def Obligations.SplitThenMergeReproducesTheFile : Prop :=
  ∀ (p : TrailingPolicy) (rate n : Nat) (payload : List Byte), rate < 2 ^ 32 → payload.length = 4 * n →
    payload.length < 2 ^ 32 →
    let file := outputStream 2 rate 16 payload
    ∃ l r : Run,
      planCall p (.stereoToMono file 0x0#4) = .ok (.drive l) ∧
      planCall p (.stereoToMono file 0x1#4) = .ok (.drive r) ∧
      planCall p (.monoPairToStereo (l.outputOf (l.requests.map responseTo)) (r.outputOf (r.requests.map responseTo)))
        = .ok (.write file)

/-- The disassembler's line for a request, and its text, assemble to that request (R46, R47).
What spacing and letter case the reader takes is the model's own (log 17). -/
def Obligations.DisassembledLineAssemblesBack : Prop :=
  ∀ q : Request, (disassemble q).request = some q ∧ assemble (disassemble q).text = some q ∧
    ((∃ op d, disassemble q = .raw op d) ↔ rspStatus (responseTo q) ≠ 0x00#8)

/-- A pair line assembles exactly when both samples are 16-bit (R46). -/
def Obligations.AssemblerTakesSampleRangeOnly : Prop :=
  ∀ (op : PairOp) (left right : Int),
    ((AsmLine.pair op left right).request.isSome ↔
      (-32768 ≤ left ∧ left ≤ 32767) ∧ (-32768 ≤ right ∧ right ≤ 32767)) ∧
    (∀ q, (AsmLine.pair op left right).request = some q →
      reqOp q = op.code ∧ (lowHalf (reqData q)).toInt = left ∧ (highHalf (reqData q)).toInt = right)

/-- The output of the two conversions that make no request (R59, R81, R82, R83, R86, R89).
The numbering of the mode selector, and what a depth that is no multiple of 8 means to mono_pair_to_stereo, are the
model's own (log 21, log 22). -/
def Obligations.SoftwarePathsWriteTheWholeOutput : Prop :=
  ∀ (p : TrailingPolicy) (input : List Byte) (h : Header), openInput input = .ok h →
    let left (i : Nat) := (BitVec.ofNat 32 (memRead input (44 + i * 8) 4)).toInt
    let right (i : Nat) := (BitVec.ofNat 32 (memRead input (48 + i * 8) 4)).toInt
    (h.dataSize % 8 = 0 → h.channelCount = 2 → h.bitsPerSample = 32 →
      let file (sample : Nat → Int) := outputStream 1 h.sampleRate 32
        ((List.range (h.dataSize / 8)).flatMap fun i => leBytes 4 (BitVec.ofInt 32 (sample i)).toNat)
      planCall p (.stereoToMono input 0x0#4) = .ok (.write (file left)) ∧
      planCall p (.stereoToMono input 0x1#4) = .ok (.write (file right)) ∧
      planCall p (.stereoToMono input 0x2#4) = .ok (.write (file fun i => fdiv2 (left i + right i))) ∧
      planCall p (.stereoToMono input 0x3#4) = .ok (.write (file fun i => fdiv2 (left i - right i)))) ∧
    (∀ (other : List Byte) (h' : Header), openInput other = .ok h' → h.channelCount = 1 → h'.channelCount = 1 →
      h.sampleRate = h'.sampleRate → h.bitsPerSample = h'.bitsPerSample → h.dataSize = h'.dataSize →
      let b := h.bitsPerSample / 8
      h.dataSize % b = 0 →
      planCall p (.monoPairToStereo input other) =
        .ok (.write (outputStream 2 h.sampleRate h.bitsPerSample ((List.range (h.dataSize / b)).flatMap fun i =>
          streamBytes input (44 + i * b) b ++ streamBytes other (44 + i * b) b))))

/-- A call that makes no request writes its output and is done (R59, R83, R87, R90).
The step of its own, the emptied records and the one output for all calls are the model's own (log 4, log 20, log 23). -/
def Obligations.CallWithoutRequestsWritesItsOutput : Prop :=
  ∀ (s : State) (c : Call) (rest : List Event) (out : List Byte), (∀ r, s.host ≠ .running r) → s.pending = none →
    s.offered = none → s.agenda = .call c :: rest → planCall Config.trailingPolicy c = .ok (.write out) →
    step s = .next { s with agenda := rest, accepted := [], delivered := [], host := .done, output := out }

/-- The text of every assembler line reads back as that line, with or without a comment (R46, R47).
What spacing and letter case the reader takes is the model's own (log 17). -/
def Obligations.LineTextReadsBack : Prop :=
  ∀ (line : AsmLine) (spaces comment : List Char), (∀ c ∈ spaces, c = ' ') →
    (comment = [] ∨ comment.head? = some ';') → readLine (line.text ++ spaces ++ comment) = some line
end

