-- ==== Sys2Proof/Laws/Bytes.lean ====
section
/-! SUPPORT. Little-endian bytes, and where the fields of a written header stand (R25, R75). -/

namespace Sys2Proof.Machine

@[simp] theorem leBytes_length (n v : Nat) : (leBytes n v).length = n := by
  induction n generalizing v with
  | zero => rfl
  | succ n ih => simp [leBytes, ih]

/-- Reading what was written gives the value's low `8n` bits (R6). -/
@[simp] theorem leNat_leBytes (n v : Nat) : leNat (leBytes n v) = v % 256 ^ n := by
  induction n generalizing v with
  | zero => simp [leBytes, leNat, Nat.mod_one]
  | succ n ih =>
    rw [pow_succ', Nat.mod_mul, leBytes, leNat, ih, BitVec.toNat_ofNat]

/-- Writing what was read gives the bytes back. -/
theorem leBytes_leNat (bs : List Byte) : leBytes bs.length (leNat bs) = bs := by
  induction bs with
  | nil => rfl
  | cons b bs ih =>
    have hb := b.isLt
    simp only [List.length_cons, leBytes, leNat]
    rw [show (b.toNat + 256 * leNat bs) / 256 = leNat bs by omega, ih]
    congr 1
    apply BitVec.eq_of_toNat_eq
    simp only [BitVec.toNat_ofNat]; omega

/-- An integer read from bytes fits in them. -/
theorem leNat_lt (bs : List Byte) : leNat bs < 256 ^ bs.length := by
  induction bs with
  | nil => simp [leNat]
  | cons b bs ih =>
    have hb := b.isLt
    simp only [leNat, List.length_cons, pow_succ']; omega

@[simp] theorem writeHeader_length (c r b n : Nat) : (writeHeader c r b n).length = headerLength := by
  simp [writeHeader, containerTag, formTag, fmtId, dataId, headerLength]

/-- The bytes of a list before and at an offset that splits it. -/
theorem streamBytes_split (front mid back : List Byte) (addr n : Nat) (ha : front.length = addr)
    (hn : mid.length = n) : streamBytes (front ++ (mid ++ back)) addr n = mid := by
  subst ha; subst hn; simp [streamBytes]

end Sys2Proof.Machine
end

