-- ==== Sys2Proof/Laws/Words.lean ====
section
/-! SUPPORT. The fields of request, response and operand words, and the arithmetic primitives in terms of integers. -/

namespace Sys2Proof

theorem extractLsb'_append_high {m n : Nat} (a : BitVec m) (b : BitVec n) : (a ++ b).extractLsb' n m = a := by
  ext i hi; simp only [BitVec.getElem_extractLsb', BitVec.getLsbD_append]; simp [BitVec.getLsbD_eq_getElem hi]

theorem extractLsb'_append_low {m n : Nat} (a : BitVec m) (b : BitVec n) : (a ++ b).extractLsb' 0 n = b := by
  ext i hi; simp only [BitVec.getElem_extractLsb', BitVec.getLsbD_append]; simp [hi]

@[simp] theorem reqOp_mkRequest (op : OpCode) (d : Data) : reqOp (mkRequest op d) = op :=
  extractLsb'_append_high _ _

@[simp] theorem reqData_mkRequest (op : OpCode) (d : Data) : reqData (mkRequest op d) = d :=
  extractLsb'_append_low _ _

/-- A request is its `OP` and its `DATA` (R37). -/
@[simp] theorem mkRequest_fields (q : Request) : mkRequest (reqOp q) (reqData q) = q := by
  simp only [mkRequest, reqOp, reqData]
  exact BitVec.eq_of_getLsbD_eq fun i hi => by
    simp only [BitVec.getLsbD_append, BitVec.getLsbD_extractLsb']
    by_cases h : i < 32
    · simp [h]
    · have : i - 32 < 8 := by omega
      simp [h, this]; congr 1; omega

@[simp] theorem lowHalf_append (a b : Sample) : lowHalf (a ++ b) = b :=
  extractLsb'_append_low _ _

@[simp] theorem highHalf_append (a b : Sample) : highHalf (a ++ b) = a :=
  extractLsb'_append_high _ _

/-- An operand word is its two halves (R39, R40). -/
@[simp] theorem append_halves (d : Data) : (highHalf d ++ lowHalf d : Data) = d := by
  simp only [highHalf, lowHalf]
  exact BitVec.eq_of_getLsbD_eq fun i hi => by
    simp only [BitVec.getLsbD_append, BitVec.getLsbD_extractLsb']
    by_cases h : i < 16
    · simp [h]
    · have : i - 16 < 16 := by omega
      simp [h, this]; congr 1; omega

namespace Machine

@[simp] theorem rspStatus_mkResponse (st : Status) (d : Data) : rspStatus (mkResponse st d) = st :=
  extractLsb'_append_high _ _

@[simp] theorem rspData_mkResponse (st : Status) (d : Data) : rspData (mkResponse st d) = d :=
  extractLsb'_append_low _ _

/-! ### Arithmetic primitives -/

/-- `fdiv2(n)` is the `q` with `2q <= n < 2q + 2` (R7). -/
theorem fdiv2_bounds (n : Int) : 2 * fdiv2 n ≤ n ∧ n < 2 * fdiv2 n + 2 := by
  unfold fdiv2; omega

/-- The signed value of a sample is in range (R39). -/
theorem sext16_range (t : Sample) : -32768 ≤ sext16 t ∧ sext16 t ≤ 32767 := by
  have h1 := BitVec.le_toInt t
  have h2 := BitVec.toInt_lt (x := t)
  simp only [sext16]; norm_num at h1 h2; omega

/-- Truncation is lossless in range (R8). -/
theorem sext16_trunc16 (n : Int) (h : -32768 ≤ n ∧ n ≤ 32767) : sext16 (trunc16 n) = n := by
  simp only [sext16, trunc16]
  exact BitVec.toInt_ofInt_eq_self (by decide) (by norm_num; omega) (by norm_num; omega)

@[simp] theorem trunc16_sext16 (t : Sample) : trunc16 (sext16 t) = t := BitVec.ofInt_toInt

/-- The value of `sat16` is in range (R10). -/
theorem sat16_range (n : Int) : -32768 ≤ sat16 n ∧ sat16 n ≤ 32767 := by
  unfold sat16 Config.satMin Config.satMax; split_ifs <;> omega

/-- In range, `sat16` changes nothing (R10). -/
theorem sat16_of_mem (n : Int) (h : -32768 ≤ n ∧ n ≤ 32767) : sat16 n = n := by
  unfold sat16 Config.satMin Config.satMax; split_ifs <;> omega

/-- `sat16` as the spec's document says it: a clamp into the range (R10). -/
theorem sat16_eq_clamp (n : Int) : sat16 n = max (-32768) (min 32767 n) := by
  unfold sat16 Config.satMin Config.satMax; split_ifs <;> omega

/-- The mid field of this hardware is unsigned (R66). -/
@[simp] theorem readMid_config (mid : Sample) : readMid Config.midSext mid = (mid.toNat : Int) := rfl

/-- The halves of a half-sum and a half-difference are in range (R55). -/
theorem half_range (l r : Sample) :
    (-32768 ≤ fdiv2 (sext16 l + sext16 r) ∧ fdiv2 (sext16 l + sext16 r) ≤ 32767) ∧
    (-32768 ≤ fdiv2 (sext16 l - sext16 r) ∧ fdiv2 (sext16 l - sext16 r) ≤ 32767) := by
  have hl := sext16_range l
  have hr := sext16_range r
  unfold fdiv2; omega

end Machine
end Sys2Proof
end

