-- ==== Sys2Proof/Laws/Decode.lean ====
section
/-! SUPPORT. The opcode table: its rows test `OP` alone, exactly one row selects each `OP`, and the decoder's
instruction is of that row (R42 to R45). -/

namespace Sys2Proof

/-- `mkRequest op d &&& (m ++ 0)` keeps `OP` under the mask and drops `DATA`. -/
theorem mkRequest_and_mask (op m : OpCode) (d : Data) :
    mkRequest op d &&& mkRequest m 0x00000000#32 = mkRequest (op &&& m) 0x00000000#32 := by
  have h : (op ++ d) &&& (m ++ 0x00000000#32) = (op &&& m) ++ (d &&& 0x00000000#32) := BitVec.and_append
  rw [BitVec.and_zero] at h
  exact h

/-- Every mask of the table is one of `OP` alone. -/
theorem mask_high (r : OpcodeRow) (h : r ∈ opcodeRows) : r.mask = mkRequest (reqOp r.mask) 0x00000000#32 := by
  revert r; decide

/-- Whether a row of the table selects a request depends on its `OP` alone (R45). -/
theorem selects_of_op (r : OpcodeRow) (h : r ∈ opcodeRows) (q : Request) :
    r.selects q = r.selects (mkRequest (reqOp q) 0x00000000#32) := by
  conv_lhs => rw [← mkRequest_fields q]
  simp only [OpcodeRow.selects]
  rw [mask_high r h, mkRequest_and_mask, mkRequest_and_mask]

/-- A fact about every `OP`, from the 256 values. -/
theorem forall_op {p : OpCode → Prop} (h : ∀ n : Fin 256, p (BitVec.ofFin n)) (op : OpCode) : p op := h op.toFin

set_option maxRecDepth 100000 in
/-- Exactly one row selects an `OP`, the one `rowOf` names (R45). -/
theorem rowOf_unique (op : OpCode) :
    (opcodeRows.filter fun r => r.selects (mkRequest op 0x00000000#32)).map OpcodeRow.row = [rowOf op] :=
  forall_op (p := fun op =>
    (opcodeRows.filter fun r => r.selects (mkRequest op 0x00000000#32)).map OpcodeRow.row = [rowOf op])
    (by decide) op

@[simp] theorem instrOf_row (row : OpRow) (op : OpCode) (d : Data) : (instrOf row op d).row = row := by
  cases row <;> rfl

@[simp] theorem instrOf_data (row : OpRow) (op : OpCode) (d : Data) : (instrOf row op d).data = d := by
  cases row <;> first | rfl | exact append_halves d

set_option maxRecDepth 100000 in
/-- The `OP` of the instruction built for the row of `op` is `op`, and it is well formed; neither depends on `DATA`. -/
theorem instrOf_rowOf (op : OpCode) (d : Data) :
    (instrOf (rowOf op) op d).op = op ∧ (instrOf (rowOf op) op d).wf = true := by
  have free (row : OpRow) (op : OpCode) : (instrOf row op d).op = (instrOf row op 0).op ∧
      (instrOf row op d).wf = (instrOf row op 0).wf := by cases row <;> exact ⟨rfl, rfl⟩
  rw [(free _ _).1, (free _ _).2]
  exact forall_op (p := fun op => (instrOf (rowOf op) op 0).op = op ∧ (instrOf (rowOf op) op 0).wf = true)
    (by decide) op

/-- The encoder puts an instruction's `OP` above its `DATA` (R37). -/
theorem encode_eq (i : Instr) : encode i = mkRequest i.op i.data := by cases i <;> rfl

@[simp] theorem decode_mkRequest (op : OpCode) (d : Data) : decode (mkRequest op d) = instrOf (rowOf op) op d := by
  simp [decode]

end Sys2Proof
end

