-- ==== Sys2Proof/Laws/State.lean ====
section
/-! SUPPORT. One lemma for each field of each named update of the state, true by `rfl`. -/

namespace Sys2Proof.Machine

variable (s : State)

@[simp] theorem recordAccepted_pending (q : Request) : (recordAccepted q s).pending = s.pending := rfl
@[simp] theorem recordAccepted_offered (q : Request) : (recordAccepted q s).offered = none := rfl
@[simp] theorem recordAccepted_agenda (q : Request) : (recordAccepted q s).agenda = s.agenda := rfl
@[simp] theorem recordAccepted_accepted (q : Request) : (recordAccepted q s).accepted = s.accepted ++ [q] := rfl
@[simp] theorem recordAccepted_delivered (q : Request) : (recordAccepted q s).delivered = s.delivered := rfl
@[simp] theorem recordAccepted_host (q : Request) : (recordAccepted q s).host = s.host := rfl
@[simp] theorem recordAccepted_output (q : Request) : (recordAccepted q s).output = s.output := rfl

@[simp] theorem resetBlock_pending : (resetBlock s).pending = none := rfl
@[simp] theorem resetBlock_offered : (resetBlock s).offered = none := rfl
@[simp] theorem resetBlock_agenda : (resetBlock s).agenda = s.agenda := rfl
@[simp] theorem resetBlock_accepted : (resetBlock s).accepted = [] := rfl
@[simp] theorem resetBlock_delivered : (resetBlock s).delivered = [] := rfl
@[simp] theorem resetBlock_host : (resetBlock s).host = s.host := rfl
@[simp] theorem resetBlock_output : (resetBlock s).output = s.output := rfl

@[simp] theorem placeRequest_pending (q : Request) : (placeRequest q s).pending = none := rfl
@[simp] theorem placeRequest_offered (q : Request) : (placeRequest q s).offered = some q := rfl
@[simp] theorem placeRequest_agenda (q : Request) : (placeRequest q s).agenda = .wait :: s.agenda := rfl
@[simp] theorem placeRequest_accepted (q : Request) : (placeRequest q s).accepted = s.accepted := rfl
@[simp] theorem placeRequest_delivered (q : Request) : (placeRequest q s).delivered = s.delivered := rfl
@[simp] theorem placeRequest_host (q : Request) : (placeRequest q s).host = s.host := rfl
@[simp] theorem placeRequest_output (q : Request) : (placeRequest q s).output = s.output := rfl

@[simp] theorem reset_pending : State.reset.pending = none := rfl
@[simp] theorem reset_offered : State.reset.offered = none := rfl
@[simp] theorem reset_agenda : State.reset.agenda = [] := rfl
@[simp] theorem reset_accepted : State.reset.accepted = [] := rfl
@[simp] theorem reset_delivered : State.reset.delivered = [] := rfl
@[simp] theorem reset_host : State.reset.host = .idle := rfl
@[simp] theorem reset_output : State.reset.output = [] := rfl

@[simp] theorem resultState_next : resultState (.next s) = some s := rfl

end Sys2Proof.Machine
end

