-- ==== Sys2Proof/Laws/Ops.lean ====
section
/-! SUPPORT. Each shared operation, and each move of the host, said once: everything it can do. -/

namespace Sys2Proof.Machine

/-- `respond` goes on, and writes the response and nothing else (R6). -/
theorem respond_next_iff (st : Status) (d : Data) (s t : State) :
    respond st d s = .next t ↔ t = { s with pending := some (mkResponse st d) } := by
  simp only [respond, Host.Outcome.next.injEq]; exact eq_comm

/-- `raise` answers with the error's status and zero data (R95). -/
theorem raise_next_iff (e : BlockError) (s t : State) :
    raise e s = .next t ↔ t = { s with pending := some (mkResponse e.status 0) } :=
  respond_next_iff _ _ _ _

/-- What `receive` can do: nothing, end a call with nothing written, or write the output of a finished call (R87,
R90). -/
theorem receive_cases (rsp : Response) (s : State) :
    receive rsp s = s ∨
    (∃ r, s.host = .running r ∧ rspStatus rsp ≠ statusOk ∧
      receive rsp s = { s with host := .failed (failureOf (rspStatus rsp)) }) ∨
    (∃ r, s.host = .running r ∧ rspStatus rsp = statusOk ∧ s.delivered.length = r.requests.length ∧
      receive rsp s = { s with host := .done, output := r.outputOf s.delivered }) := by
  unfold receive
  split
  · rename_i r hr
    by_cases h1 : rspStatus rsp = statusOk
    · by_cases h2 : s.delivered.length = r.requests.length
      · exact .inr (.inr ⟨r, hr, h1, h2, by simp [h1, h2]⟩)
      · exact .inl (by simp [h1, h2])
    · exact .inr (.inl ⟨r, hr, h1, by simp [h1]⟩)
  · exact .inl rfl

@[simp] theorem receive_pending (rsp : Response) (s : State) : (receive rsp s).pending = s.pending := by
  obtain h | ⟨_, _, _, h⟩ | ⟨_, _, _, _, h⟩ := receive_cases rsp s <;> simp [h]

@[simp] theorem receive_offered (rsp : Response) (s : State) : (receive rsp s).offered = s.offered := by
  obtain h | ⟨_, _, _, h⟩ | ⟨_, _, _, _, h⟩ := receive_cases rsp s <;> simp [h]

@[simp] theorem receive_agenda (rsp : Response) (s : State) : (receive rsp s).agenda = s.agenda := by
  obtain h | ⟨_, _, _, h⟩ | ⟨_, _, _, _, h⟩ := receive_cases rsp s <;> simp [h]

@[simp] theorem receive_accepted (rsp : Response) (s : State) : (receive rsp s).accepted = s.accepted := by
  obtain h | ⟨_, _, _, h⟩ | ⟨_, _, _, _, h⟩ := receive_cases rsp s <;> simp [h]

@[simp] theorem receive_delivered (rsp : Response) (s : State) : (receive rsp s).delivered = s.delivered := by
  obtain h | ⟨_, _, _, h⟩ | ⟨_, _, _, _, h⟩ := receive_cases rsp s <;> simp [h]

/-- Outside a call, a response is only recorded. -/
theorem receive_of_not_running (rsp : Response) (s : State) (h : ∀ r, s.host ≠ .running r) :
    receive rsp s = s := by
  unfold receive; split
  · rename_i r hr; exact absurd hr (h r)
  · rfl

/-- The three things an edge can do: accept, deliver, or no transfer (R22, R23). -/
theorem clockEdge_cases (ready : Bool) (s : State) :
    (∃ q, s.pending = none ∧ s.offered = some q ∧ clockEdge ready s = accept q s) ∨
    (∃ rsp, s.pending = some rsp ∧ ready = true ∧ clockEdge ready s = .next (deliver rsp s)) ∨
    (clockEdge ready s = .next s ∧ (s.pending = none → s.offered = none) ∧ (s.pending ≠ none → ready = false)) := by
  rcases hp : s.pending with _ | rsp
  · rcases ho : s.offered with _ | q
    · exact .inr (.inr ⟨by simp [clockEdge, hp, ho], fun _ => rfl, fun h => absurd rfl h⟩)
    · exact .inl ⟨q, rfl, rfl, by simp [clockEdge, hp, ho]⟩
  · cases ready
    · exact .inr (.inr ⟨by simp [clockEdge, hp], fun h => (by simp at h), fun _ => rfl⟩)
    · exact .inr (.inl ⟨rsp, rfl, rfl, by simp [clockEdge, hp]⟩)

/-- What the host can do inside a call: take, stay, or offer the next frame on a free port (R81, R88). -/
theorem serve_cases (r : Run) (s : State) :
    (∃ ready, serve r s = (.edge ready, s)) ∨
    (∃ q, s.pending = none ∧ s.offered = none ∧ r.requests[s.accepted.length]? = some q ∧
      serve r s = (.edge false, { s with offered := some q })) := by
  obtain ⟨pending, offered, agenda, accepted, delivered, host, output⟩ := s
  cases pending with
  | some rsp => exact .inl ⟨true, rfl⟩
  | none =>
    cases offered with
    | some q => exact .inl ⟨false, rfl⟩
    | none =>
      cases hq : r.requests[accepted.length]? with
      | none => exact .inl ⟨false, by simp [serve, hq]⟩
      | some q => exact .inr ⟨q, rfl, rfl, rfl, by simp [serve, hq]⟩

/-- What the host's next move is, with the state it leaves: a reset, the beginning of a call on a quiet port, an edge
that changes nothing else, or an edge for which it begins to offer a request, its agenda's or the next frame of its
call. Only the agenda and the port change (R88). -/
theorem hostMove_cases (s : State) :
    (∃ rest, s.agenda = .reset :: rest ∧ hostMove s = (.reset, { s with agenda := rest })) ∨
    (∃ c rest, s.agenda = .call c :: rest ∧ s.pending = none ∧ s.offered = none ∧ (∀ r, s.host ≠ .running r) ∧
      hostMove s = (.start c, { s with agenda := rest })) ∨
    (∃ ready rest, hostMove s = (.edge ready, { s with agenda := rest })) ∨
    (∃ q rest, s.offered = none ∧ (∀ r, s.host ≠ .running r) ∧
      hostMove s = (.edge false, { s with offered := some q, agenda := rest })) ∨
    (∃ r q rest, s.host = .running r ∧ s.pending = none ∧ s.offered = none ∧
      r.requests[s.accepted.length]? = some q ∧
      hostMove s = (.edge false, { s with offered := some q, agenda := rest })) := by
  obtain ⟨pending, offered, agenda, accepted, delivered, host, output⟩ := s
  by_cases hr : ∃ r, host = .running r
  · obtain ⟨r, rfl⟩ := hr
    have key : (∃ rest, agenda = .reset :: rest) ∨ (∃ rest, agenda = .wait :: rest) ∨
        ∃ rest, hostMove ⟨pending, offered, agenda, accepted, delivered, .running r, output⟩
          = serve r ⟨pending, offered, rest, accepted, delivered, .running r, output⟩ := by
      match agenda with
      | .reset :: rest => exact .inl ⟨rest, rfl⟩
      | .wait :: rest => exact .inr (.inl ⟨rest, rfl⟩)
      | [] => exact .inr (.inr ⟨_, rfl⟩)
      | .serve :: _ => exact .inr (.inr ⟨_, rfl⟩)
      | .take :: _ => exact .inr (.inr ⟨_, rfl⟩)
      | .offer _ :: _ => exact .inr (.inr ⟨_, rfl⟩)
      | .call _ :: _ => exact .inr (.inr ⟨_, rfl⟩)
    obtain ⟨rest, rfl⟩ | ⟨rest, rfl⟩ | ⟨rest, h⟩ := key
    · exact .inl ⟨rest, rfl, rfl⟩
    · exact .inr (.inr (.inl ⟨false, rest, rfl⟩))
    · obtain ⟨ready, hs⟩ | ⟨q, hp, ho, hq, hs⟩ :=
        serve_cases r ⟨pending, offered, rest, accepted, delivered, .running r, output⟩
      · exact .inr (.inr (.inl ⟨ready, rest, h.trans hs⟩))
      · exact .inr (.inr (.inr (.inr ⟨r, q, rest, rfl, hp, ho, hq, h.trans hs⟩)))
  · have hn : ∀ r, host ≠ .running r := fun r h => hr ⟨r, h⟩
    match agenda with
    | .reset :: rest => exact .inl ⟨rest, rfl, by cases host <;> rfl⟩
    | .wait :: rest => exact .inr (.inr (.inl ⟨false, rest, by cases host <;> rfl⟩))
    | [] => exact .inr (.inr (.inl ⟨false, [], by cases host <;> first | rfl | exact absurd rfl (hn _)⟩))
    | .serve :: rest => exact .inr (.inr (.inl ⟨false, rest, by cases host <;> first | rfl | exact absurd rfl (hn _)⟩))
    | .take :: rest => exact .inr (.inr (.inl ⟨true, rest, by cases host <;> first | rfl | exact absurd rfl (hn _)⟩))
    | .offer q :: rest =>
      cases offered with
      | some q' =>
        exact .inr (.inr (.inl ⟨false, .offer q :: rest, by cases host <;> first | rfl | exact absurd rfl (hn _)⟩))
      | none =>
        exact .inr (.inr (.inr (.inl ⟨q, rest, rfl, hn, by cases host <;> first | rfl | exact absurd rfl (hn _)⟩)))
    | .call c :: rest =>
      by_cases hq : pending = none ∧ offered = none
      · obtain ⟨rfl, rfl⟩ := hq
        exact .inr (.inl ⟨c, rest, rfl, rfl, rfl, hn, by cases host <;> first | rfl | exact absurd rfl (hn _)⟩)
      · have busy : (pending.isSome || offered.isSome) = true := by
          cases pending <;> cases offered <;> simp_all
        exact .inr (.inr (.inl ⟨true, .call c :: rest, by
          cases host <;> first | exact absurd rfl (hn _) | simp [hostMove, busy]⟩))

/-! ### The host's move for each entry of the agenda -/

theorem hostMove_reset (s : State) (rest : List Event) (h : s.agenda = .reset :: rest) :
    hostMove s = (.reset, { s with agenda := rest }) := by
  obtain ⟨_, _, _, _, _, host, _⟩ := s; cases h; cases host <;> rfl

theorem hostMove_wait (s : State) (rest : List Event) (h : s.agenda = .wait :: rest) :
    hostMove s = (.edge false, { s with agenda := rest }) := by
  obtain ⟨_, _, _, _, _, host, _⟩ := s; cases h; cases host <;> rfl

theorem hostMove_take (s : State) (rest : List Event) (h : s.agenda = .take :: rest)
    (hn : ∀ r, s.host ≠ .running r) : hostMove s = (.edge true, { s with agenda := rest }) := by
  obtain ⟨_, _, _, _, _, host, _⟩ := s; cases h; cases host <;> first | exact absurd rfl (hn _) | rfl

theorem hostMove_offer (s : State) (q : Request) (rest : List Event) (h : s.agenda = .offer q :: rest)
    (hn : ∀ r, s.host ≠ .running r) (ho : s.offered = none) :
    hostMove s = (.edge false, { s with offered := some q, agenda := rest }) := by
  obtain ⟨_, _, _, _, _, host, _⟩ := s; cases h; cases ho; cases host <;> first | exact absurd rfl (hn _) | rfl

theorem hostMove_call (s : State) (c : Call) (rest : List Event) (h : s.agenda = .call c :: rest)
    (hn : ∀ r, s.host ≠ .running r) (hp : s.pending = none) (ho : s.offered = none) :
    hostMove s = (.start c, { s with agenda := rest }) := by
  obtain ⟨_, _, _, _, _, host, _⟩ := s; cases h; cases hp; cases ho
  cases host <;> first | exact absurd rfl (hn _) | rfl

/-- With nothing on the agenda, a running host serves its call. -/
theorem hostMove_serve (s : State) (r : Run) (hr : s.host = .running r) (h : s.agenda = []) :
    hostMove s = serve r s := by
  obtain ⟨_, _, _, _, _, host, _⟩ := s; cases h; cases hr; rfl

/-- With a `serve` on the agenda, a running host serves its call and strikes it off. -/
theorem hostMove_serve_event (s : State) (r : Run) (rest : List Event) (hr : s.host = .running r)
    (h : s.agenda = .serve :: rest) : hostMove s = serve r { s with agenda := rest } := by
  obtain ⟨_, _, _, _, _, host, _⟩ := s; cases h; cases hr; rfl

/-- With nothing on the agenda, a host outside a call does nothing. -/
theorem hostMove_nil (s : State) (hn : ∀ r, s.host ≠ .running r) (h : s.agenda = []) :
    hostMove s = (.edge false, s) := by
  obtain ⟨_, _, _, _, _, host, _⟩ := s; cases h; cases host <;> first | exact absurd rfl (hn _) | rfl

/-- What the beginning of a call can do (R87, R90, R106). -/
theorem startCall_cases (p : TrailingPolicy) (c : Call) (s : State) :
    (∃ e, planCall p c = .error e ∧
      startCall p c s = { s with accepted := [], delivered := [], host := .failed (.error e) }) ∨
    (∃ out, planCall p c = .ok (.write out) ∧
      startCall p c s = { s with accepted := [], delivered := [], host := .done, output := out }) ∨
    (∃ r, planCall p c = .ok (.drive r) ∧ r.requests = [] ∧
      startCall p c s = { s with accepted := [], delivered := [], host := .done, output := r.outputOf [] }) ∨
    (∃ r, planCall p c = .ok (.drive r) ∧ r.requests ≠ [] ∧
      startCall p c s = { s with accepted := [], delivered := [], host := .running r }) := by
  unfold startCall
  rcases hc : planCall p c with e | out | r
  · exact .inl ⟨e, rfl, rfl⟩
  · by_cases hr : out.requests = []
    · exact .inr (.inr (.inl ⟨out, rfl, hr, by simp [hr]⟩))
    · exact .inr (.inr (.inr ⟨out, rfl, hr, by simp [hr]⟩))
  · exact .inr (.inl ⟨r, rfl, rfl⟩)

end Sys2Proof.Machine
end

