-- ==== Sys2Proof/Laws/Exec.lean ====
section
/-! SUPPORT. The response word of each operation, from its `OP` and `DATA`: one lemma for each meaning, which later
proofs cite instead of unfolding it. -/

namespace Sys2Proof.Machine

/-- The response to a request is what `exec` leaves pending in the reset state. -/
theorem responseTo_of_exec (q : Request) (rsp : Response)
    (h : exec (decode q) State.reset = .next { State.reset with pending := some rsp }) : responseTo q = rsp := by
  simp [responseTo, h]

theorem responseTo_sell (d : Data) :
    responseTo (mkRequest 0x00#8 d) = mkResponse 0x00#8 (monoWord (sext16 (lowHalf d))) :=
  responseTo_of_exec _ _ (by rw [decode_mkRequest, show rowOf 0x00#8 = .sell by decide]; rfl)

theorem responseTo_selr (d : Data) :
    responseTo (mkRequest 0x01#8 d) = mkResponse 0x00#8 (monoWord (sext16 (highHalf d))) :=
  responseTo_of_exec _ _ (by rw [decode_mkRequest, show rowOf 0x01#8 = .selr by decide]; rfl)

theorem responseTo_mid (d : Data) : responseTo (mkRequest 0x02#8 d)
    = mkResponse 0x00#8 (monoWord (fdiv2 (sext16 (lowHalf d) + sext16 (highHalf d)))) :=
  responseTo_of_exec _ _ (by rw [decode_mkRequest, show rowOf 0x02#8 = .mid by decide]; rfl)

theorem responseTo_side (d : Data) : responseTo (mkRequest 0x03#8 d)
    = mkResponse 0x00#8 (monoWord (fdiv2 (sext16 (lowHalf d) - sext16 (highHalf d)))) :=
  responseTo_of_exec _ _ (by rw [decode_mkRequest, show rowOf 0x03#8 = .side by decide]; rfl)

theorem responseTo_pack32 (d : Data) : responseTo (mkRequest 0x10#8 d)
    = mkResponse 0x00#8 (packPair (sext16 (lowHalf d)) (sext16 (highHalf d))) :=
  responseTo_of_exec _ _ (by rw [decode_mkRequest, show rowOf 0x10#8 = .pack32 by decide]; rfl)

theorem responseTo_unpack32 (d : Data) : responseTo (mkRequest 0x20#8 d)
    = mkResponse 0x00#8 (unpackWord ((highHalf d).toNat : Int) (sext16 (lowHalf d))) :=
  responseTo_of_exec _ _ (by rw [decode_mkRequest, show rowOf 0x20#8 = .unpack32 by decide]; rfl)

/-- The mode tags outside the four: the rows of InvalidMode. -/
theorem responseTo_invalidMode (op : OpCode) (d : Data)
    (h : rowOf op = .invalidMode04_07 ∨ rowOf op = .invalidMode08_0F) :
    responseTo (mkRequest op d) = mkResponse 0x01#8 0 :=
  responseTo_of_exec _ _ (by rw [decode_mkRequest]; rcases h with h | h <;> rw [h] <;> rfl)

@[simp] theorem lowHalf_monoWord (v : Int) : lowHalf (monoWord v) = trunc16 v := lowHalf_append _ _
@[simp] theorem highHalf_monoWord (v : Int) : highHalf (monoWord v) = 0x0000#16 := highHalf_append _ _
@[simp] theorem lowHalf_frameWord (l r : Int) : lowHalf (frameWord l r) = trunc16 l := lowHalf_append _ _
@[simp] theorem highHalf_frameWord (l r : Int) : highHalf (frameWord l r) = trunc16 r := highHalf_append _ _
@[simp] theorem lowHalf_codedWord (m d : Int) : lowHalf (codedWord m d) = trunc16 d := lowHalf_append _ _
@[simp] theorem highHalf_codedWord (m d : Int) : highHalf (codedWord m d) = trunc16 m := highHalf_append _ _

end Sys2Proof.Machine
end

