-- ==== Sys2Proof/Laws/PerInstr.lean ====
section
/-! SUPPORT. Per instruction: a well-formed instruction's request word is one its own row of the opcode table selects
(R42 to R44), one lemma for each constructor. -/

namespace Sys2Proof.Laws.EncodesInItsRow

open Sys2Proof

/-- The encoded word is selected by the instruction's row. -/
def Statement (i : Instr) : Prop :=
  i.wf = true → ∃ r ∈ opcodeRows, r.row = i.row ∧ r.selects (encode i) = true

/-- A row whose match and mask have no bit below bit 32 tests `OP` alone. -/
theorem selects_of_op (row : OpRow) (op match8 mask8 : OpCode) (d : Data) (h : op &&& mask8 = match8) :
    OpcodeRow.selects ⟨row, match8 ++ 0x00000000#32, mask8 ++ 0x00000000#32⟩ (mkRequest op d) = true := by
  subst h
  simp only [OpcodeRow.selects, mkRequest, beq_iff_eq]
  have split : (op ++ d) &&& (mask8 ++ 0x00000000#32) = (op &&& mask8) ++ (d &&& 0x00000000#32) := BitVec.and_append
  rw [BitVec.and_zero] at split
  exact split

theorem sell (left right : Sample) : Statement (.sell left right) := fun _ =>
  ⟨⟨.sell, 0x0000000000#40, 0xFF00000000#40⟩, by decide, rfl,
    selects_of_op _ 0x00#8 0x00#8 0xFF#8 (right ++ left) (by decide)⟩

theorem selr (left right : Sample) : Statement (.selr left right) := fun _ =>
  ⟨⟨.selr, 0x0100000000#40, 0xFF00000000#40⟩, by decide, rfl,
    selects_of_op _ 0x01#8 0x01#8 0xFF#8 (right ++ left) (by decide)⟩

theorem mid (left right : Sample) : Statement (.mid left right) := fun _ =>
  ⟨⟨.mid, 0x0200000000#40, 0xFF00000000#40⟩, by decide, rfl,
    selects_of_op _ 0x02#8 0x02#8 0xFF#8 (right ++ left) (by decide)⟩

theorem side (left right : Sample) : Statement (.side left right) := fun _ =>
  ⟨⟨.side, 0x0300000000#40, 0xFF00000000#40⟩, by decide, rfl,
    selects_of_op _ 0x03#8 0x03#8 0xFF#8 (right ++ left) (by decide)⟩

theorem pack32 (left right : Sample) : Statement (.pack32 left right) := fun _ =>
  ⟨⟨.pack32, 0x1000000000#40, 0xFF00000000#40⟩, by decide, rfl,
    selects_of_op _ 0x10#8 0x10#8 0xFF#8 (right ++ left) (by decide)⟩

theorem unpack32 (m s : Sample) : Statement (.unpack32 m s) := fun _ =>
  ⟨⟨.unpack32, 0x2000000000#40, 0xFF00000000#40⟩, by decide, rfl,
    selects_of_op _ 0x20#8 0x20#8 0xFF#8 (m ++ s) (by decide)⟩

theorem invalidMode04_07 (op : OpCode) (data : Data) : Statement (.invalidMode04_07 op data) := fun h =>
  ⟨⟨.invalidMode04_07, 0x0400000000#40, 0xFC00000000#40⟩, by decide, rfl,
    selects_of_op _ op 0x04#8 0xFC#8 data (by simpa [Instr.wf, Instr.op, Instr.opMask, Instr.opMatch] using h)⟩

theorem invalidMode08_0F (op : OpCode) (data : Data) : Statement (.invalidMode08_0F op data) := fun h =>
  ⟨⟨.invalidMode08_0F, 0x0800000000#40, 0xF800000000#40⟩, by decide, rfl,
    selects_of_op _ op 0x08#8 0xF8#8 data (by simpa [Instr.wf, Instr.op, Instr.opMask, Instr.opMatch] using h)⟩

theorem illegal11_11 (data : Data) : Statement (.illegal11_11 data) := fun _ =>
  ⟨⟨.illegal11_11, 0x1100000000#40, 0xFF00000000#40⟩, by decide, rfl,
    selects_of_op _ 0x11#8 0x11#8 0xFF#8 data (by decide)⟩

theorem illegal12_13 (op : OpCode) (data : Data) : Statement (.illegal12_13 op data) := fun h =>
  ⟨⟨.illegal12_13, 0x1200000000#40, 0xFE00000000#40⟩, by decide, rfl,
    selects_of_op _ op 0x12#8 0xFE#8 data (by simpa [Instr.wf, Instr.op, Instr.opMask, Instr.opMatch] using h)⟩

theorem illegal14_17 (op : OpCode) (data : Data) : Statement (.illegal14_17 op data) := fun h =>
  ⟨⟨.illegal14_17, 0x1400000000#40, 0xFC00000000#40⟩, by decide, rfl,
    selects_of_op _ op 0x14#8 0xFC#8 data (by simpa [Instr.wf, Instr.op, Instr.opMask, Instr.opMatch] using h)⟩

theorem illegal18_1F (op : OpCode) (data : Data) : Statement (.illegal18_1F op data) := fun h =>
  ⟨⟨.illegal18_1F, 0x1800000000#40, 0xF800000000#40⟩, by decide, rfl,
    selects_of_op _ op 0x18#8 0xF8#8 data (by simpa [Instr.wf, Instr.op, Instr.opMask, Instr.opMatch] using h)⟩

theorem illegal21_21 (data : Data) : Statement (.illegal21_21 data) := fun _ =>
  ⟨⟨.illegal21_21, 0x2100000000#40, 0xFF00000000#40⟩, by decide, rfl,
    selects_of_op _ 0x21#8 0x21#8 0xFF#8 data (by decide)⟩

theorem illegal22_23 (op : OpCode) (data : Data) : Statement (.illegal22_23 op data) := fun h =>
  ⟨⟨.illegal22_23, 0x2200000000#40, 0xFE00000000#40⟩, by decide, rfl,
    selects_of_op _ op 0x22#8 0xFE#8 data (by simpa [Instr.wf, Instr.op, Instr.opMask, Instr.opMatch] using h)⟩

theorem illegal24_27 (op : OpCode) (data : Data) : Statement (.illegal24_27 op data) := fun h =>
  ⟨⟨.illegal24_27, 0x2400000000#40, 0xFC00000000#40⟩, by decide, rfl,
    selects_of_op _ op 0x24#8 0xFC#8 data (by simpa [Instr.wf, Instr.op, Instr.opMask, Instr.opMatch] using h)⟩

theorem illegal28_2F (op : OpCode) (data : Data) : Statement (.illegal28_2F op data) := fun h =>
  ⟨⟨.illegal28_2F, 0x2800000000#40, 0xF800000000#40⟩, by decide, rfl,
    selects_of_op _ op 0x28#8 0xF8#8 data (by simpa [Instr.wf, Instr.op, Instr.opMask, Instr.opMatch] using h)⟩

theorem illegal30_3F (op : OpCode) (data : Data) : Statement (.illegal30_3F op data) := fun h =>
  ⟨⟨.illegal30_3F, 0x3000000000#40, 0xF000000000#40⟩, by decide, rfl,
    selects_of_op _ op 0x30#8 0xF0#8 data (by simpa [Instr.wf, Instr.op, Instr.opMask, Instr.opMatch] using h)⟩

theorem illegal40_7F (op : OpCode) (data : Data) : Statement (.illegal40_7F op data) := fun h =>
  ⟨⟨.illegal40_7F, 0x4000000000#40, 0xC000000000#40⟩, by decide, rfl,
    selects_of_op _ op 0x40#8 0xC0#8 data (by simpa [Instr.wf, Instr.op, Instr.opMask, Instr.opMatch] using h)⟩

theorem illegal80_FF (op : OpCode) (data : Data) : Statement (.illegal80_FF op data) := fun h =>
  ⟨⟨.illegal80_FF, 0x8000000000#40, 0x8000000000#40⟩, by decide, rfl,
    selects_of_op _ op 0x80#8 0x80#8 data (by simpa [Instr.wf, Instr.op, Instr.opMask, Instr.opMatch] using h)⟩

end Sys2Proof.Laws.EncodesInItsRow
end

