-- ==== Sys2Proof/Laws/Text.lean ====
section
/-! SUPPORT. The assembler's text: numbers read back as they were written, and how a line is cut into its mnemonic and
its operands (R46, R47). -/

namespace Sys2Proof.Machine

/-! ### Numbers -/

theorem digitValue_digit {c : Char} (h : c.isDigit = true) : digitValue 10 c = some (c.toNat - 48) := by
  have hc : 48 ≤ c.toNat ∧ c.toNat ≤ 57 := by
    simpa [Char.isDigit, UInt32.le_iff_toNat_le] using h
  simp only [digitValue, hc, and_self, if_true]
  rw [if_pos (by omega)]

theorem readDigits_digits (cs : List Char) (h : ∀ c ∈ cs, c.isDigit = true) (acc : Nat) :
    readDigits 10 acc cs = some (Nat.ofDigitChars 10 cs acc) := by
  induction cs generalizing acc with
  | nil => rfl
  | cons c cs ih =>
    rw [readDigits, digitValue_digit (h c (by simp)), Option.bind_some, ih (fun d hd => h d (by simp [hd])),
      Nat.ofDigitChars_cons, Nat.mul_comm acc 10]
    rfl

theorem toDigits_isDigit (n : Nat) : ∀ c ∈ Nat.toDigits 10 n, c.isDigit = true := fun _ hc =>
  Nat.isDigit_of_mem_toDigits (by decide) (by decide) hc

@[simp] theorem readDigits_toDigits (n : Nat) : readDigits 10 0 (Nat.toDigits 10 n) = some n := by
  rw [readDigits_digits _ (toDigits_isDigit n), Nat.ofDigitChars_ten_toDigits]

/-- A decimal reads back as the integer it was written from (R46). -/
@[simp] theorem readDecimal_decimal (n : Int) : readDecimal (decimal n) = some n := by
  cases n with
  | ofNat n =>
    have hne : Nat.toDigits 10 n ≠ [] := Nat.toDigits_ne_nil
    have hd := toDigits_isDigit n
    have hr := readDigits_toDigits n
    simp only [decimal]
    generalize Nat.toDigits 10 n = cs at *
    match cs with
    | [] => exact absurd rfl hne
    | c :: cs =>
      have hc : c ≠ '-' := by rintro rfl; exact absurd (hd '-' (by simp)) (by decide)
      unfold readDecimal
      split <;> simp_all
  | negSucc n =>
    have hne : Nat.toDigits 10 (n + 1) ≠ [] := Nat.toDigits_ne_nil
    have hr := readDigits_toDigits (n + 1)
    simp only [decimal]
    generalize Nat.toDigits 10 (n + 1) = cs at *
    match cs with
    | [] => exact absurd rfl hne
    | c :: cs =>
      simp only [readDecimal, hr]
      congr 1

theorem digitValue_hexChar : ∀ d < 16, digitValue 16 (hexChar d) = some d := by decide

@[simp] theorem hexDigits_length (n v : Nat) : (hexDigits n v).length = n := by simp [hexDigits]

theorem hexDigits_succ (n v : Nat) : hexDigits (n + 1) v = hexChar (v / 16 ^ n % 16) :: hexDigits n v := by
  simp [hexDigits, List.range_succ]

theorem readDigits_hexDigits (n v acc : Nat) :
    readDigits 16 acc (hexDigits n v) = some (acc * 16 ^ n + v % 16 ^ n) := by
  induction n generalizing acc with
  | zero => simp [hexDigits, readDigits, Nat.mod_one]
  | succ n ih =>
    rw [hexDigits_succ, readDigits, digitValue_hexChar _ (Nat.mod_lt _ (by decide)), Option.bind_some, ih,
      pow_succ, Nat.mod_mul]
    congr 1
    ring

/-- `n` hexadecimal digits read back as the number they were written from, where it fits in them (R46, R47). -/
theorem readHex_hexDigits (n v : Nat) (h : v < 16 ^ n) : readHex n ('0' :: 'x' :: hexDigits n v) = some v := by
  simp [readHex, readDigits_hexDigits, Nat.mod_eq_of_lt h]

/-! ### The cutting of a line -/

/-- A character that neither separates operands nor begins a comment. -/
def plain (c : Char) : Bool := c ≠ ' ' && c ≠ ',' && c ≠ ';'

theorem hexChar_plain : ∀ d < 16, plain (hexChar d) = true := by decide

theorem hexDigits_plain (n v : Nat) : (hexDigits n v).all plain = true := by
  induction n with
  | zero => rfl
  | succ n ih => simp [hexDigits_succ, ih, hexChar_plain _ (Nat.mod_lt _ (by decide : 16 > 0))]

theorem digit_plain {c : Char} (h : c.isDigit = true) : plain c = true := by
  have : c ≠ ' ' ∧ c ≠ ',' ∧ c ≠ ';' := ⟨by rintro rfl; simp at h, by rintro rfl; simp at h, by rintro rfl; simp at h⟩
  simp [plain, this]

theorem decimal_plain (n : Int) : (decimal n).all plain = true := by
  have key : ∀ k : Nat, (Nat.toDigits 10 k).all plain = true := fun k =>
    List.all_eq_true.2 fun c hc => digit_plain (toDigits_isDigit k c hc)
  cases n with
  | ofNat n => exact key n
  | negSucc n =>
    have := key (n + 1)
    simp only [decimal, List.all_cons, this, Bool.and_true]
    decide

theorem splitCommas_plain (p : List Char) (h : p.all plain = true) : splitCommas p = [p] := by
  induction p with
  | nil => rfl
  | cons c cs ih =>
    simp only [List.all_cons, Bool.and_eq_true] at h
    have hc : c ≠ ',' := by rintro rfl; exact absurd h.1 (by decide)
    simp [splitCommas, ih h.2, hc]

theorem splitCommas_pair (p q : List Char) (hp : p.all plain = true) (hq : q.all plain = true) :
    splitCommas (p ++ ',' :: q) = [p, q] := by
  induction p with
  | nil => simp [splitCommas, splitCommas_plain q hq]
  | cons c cs ih =>
    simp only [List.all_cons, Bool.and_eq_true] at hp
    have hc : c ≠ ',' := by rintro rfl; exact absurd hp.1 (by decide)
    simp [splitCommas, ih hp.2, hc]

/-- A mnemonic, a space and operands without a comment are read as their pieces, whatever spaces stand before a comment
and whatever the comment says (R46; log 17). -/
theorem readLine_pieces (w ops spaces comment : List Char) (hw : w.all plain = true) (hne : w ≠ [])
    (hops : ∀ c ∈ ops, c ≠ ';') (hs : ∀ c ∈ spaces, c = ' ')
    (hc : comment.head? = none ∨ comment.head? = some ';') :
    readLine (w ++ ' ' :: ops ++ spaces ++ comment)
      = readOperands w (splitCommas (ops.filter fun c => c ≠ ' ')) := by
  have hplain : ∀ c ∈ w, c ≠ ' ' ∧ c ≠ ';' := fun c h => by
    have := List.all_eq_true.1 hw c h
    simp [plain] at this
    exact ⟨this.1.1, this.2⟩
  have hcode : (w ++ ' ' :: ops ++ spaces ++ comment).takeWhile (fun c => decide (c ≠ ';'))
      = w ++ (' ' :: ops ++ spaces) := by
    rw [List.takeWhile_append_of_pos]
    · have : comment.takeWhile (fun c => decide (c ≠ ';')) = [] := by
        cases comment with
        | nil => rfl
        | cons c cs => simp_all
      rw [this]; simp
    · intro c h
      simp only [List.mem_append, List.mem_cons] at h
      obtain (h | rfl | h) | h := h
      · simpa using (hplain c h).2
      · decide
      · simpa using hops c h
      · rw [hs c h]; decide
  have hfilter : (' ' :: ops ++ spaces).filter (fun c => decide (c ≠ ' ')) = ops.filter fun c => decide (c ≠ ' ') := by
    have : spaces.filter (fun c => decide (c ≠ ' ')) = [] := by
      rw [List.filter_eq_nil_iff]; intro c h; simp [hs c h]
    simp only [List.cons_append, List.filter_cons, List.filter_append, this]
    simp
  have hw' : ∀ c ∈ w, decide (c ≠ ' ') = true := fun c h => by simpa using (hplain c h).1
  have htrim : (w ++ (' ' :: ops ++ spaces)).dropWhile (fun c => decide (c = ' ')) = w ++ (' ' :: ops ++ spaces) := by
    cases w with
    | nil => exact absurd rfl hne
    | cons c cs =>
      have : c ≠ ' ' := (hplain c (by simp)).1
      simp [this]
  unfold readLine
  simp only [hcode, htrim]
  rw [List.takeWhile_append_of_pos hw', List.dropWhile_append_of_pos hw']
  simp only [List.cons_append] at hfilter ⊢
  rw [show (' ' :: (ops ++ spaces)).takeWhile (fun c => decide (c ≠ ' ')) = [] from rfl,
    show (' ' :: (ops ++ spaces)).dropWhile (fun c => decide (c ≠ ' ')) = ' ' :: (ops ++ spaces) from rfl,
    List.append_nil, hfilter]

end Sys2Proof.Machine
end

