-- ==== Sys2Proof/Tests/Slice0.lean ====
section
/-! SUPPORT. The model's own tests. Every expected value is the spec's: a row of spec/95_test_vectors.md (named in the
comment), an example of the operation's rule, or a word written out from an encoding string of R42. -/

namespace Sys2Proof.Tests

open Sys2Proof Sys2Proof.Machine

/-! ### Well-formedness: the smoke test. Each row's check refuses an `OP` outside the row. -/

theorem test_wf_refuses_op_outside_row :
    (Instr.invalidMode04_07 0x08#8 0#32).wf = false ∧
    (Instr.invalidMode08_0F 0x10#8 0#32).wf = false ∧
    (Instr.illegal12_13 0x14#8 0#32).wf = false ∧
    (Instr.illegal14_17 0x13#8 0#32).wf = false ∧
    (Instr.illegal18_1F 0x17#8 0#32).wf = false ∧
    (Instr.illegal22_23 0x21#8 0#32).wf = false ∧
    (Instr.illegal24_27 0x28#8 0#32).wf = false ∧
    (Instr.illegal28_2F 0x20#8 0#32).wf = false ∧
    (Instr.illegal30_3F 0x40#8 0#32).wf = false ∧
    (Instr.illegal40_7F 0x80#8 0#32).wf = false ∧
    (Instr.illegal80_FF 0x7F#8 0#32).wf = false := by decide

theorem test_wf_accepts_op_inside_row :
    (Instr.invalidMode04_07 0x07#8 0#32).wf = true ∧ (Instr.illegal40_7F 0x5A#8 0#32).wf = true ∧
    (Instr.mid 3#16 4#16).wf = true := by decide

/-- U5: a program that relies on an unassigned `OP` is refused; one with a bad mode tag is not (R44). -/
theorem test_program_wf_refuses_unassigned_op :
    Program.wf [.mid 1#16 2#16, .illegal30_3F 0x30#8 0#32] = false ∧
    Program.wf [.mid 1#16 2#16, .invalidMode04_07 0x04#8 0#32] = true := by decide

/-- The rows of the table are 19, and no two select the same value of `OP` (R45). -/
theorem test_rows_disjoint :
    opcodeRows.length = 19 ∧
    opcodeRows.Pairwise (fun a b => a.pattern &&& b.mask &&& a.mask ≠ b.pattern &&& a.mask &&& b.mask) := by decide

/-! ### Decoding: words written out from R42, operands with distinct halves. -/

theorem test_decode_sell :
    decode 0b0000000010101011110011010001001000110100#40 = .sell 0x1234#16 0xABCD#16 ∧ encode (.sell 0x1234#16 0xABCD#16) = 0b0000000010101011110011010001001000110100#40 := by decide
theorem test_decode_selr :
    decode 0b0000000110101011110011010001001000110100#40 = .selr 0x1234#16 0xABCD#16 ∧ encode (.selr 0x1234#16 0xABCD#16) = 0b0000000110101011110011010001001000110100#40 := by decide
theorem test_decode_mid :
    decode 0b0000001010101011110011010001001000110100#40 = .mid 0x1234#16 0xABCD#16 ∧ encode (.mid 0x1234#16 0xABCD#16) = 0b0000001010101011110011010001001000110100#40 := by decide
theorem test_decode_side :
    decode 0b0000001110101011110011010001001000110100#40 = .side 0x1234#16 0xABCD#16 ∧ encode (.side 0x1234#16 0xABCD#16) = 0b0000001110101011110011010001001000110100#40 := by decide
theorem test_decode_pack32 :
    decode 0b0001000010101011110011010001001000110100#40 = .pack32 0x1234#16 0xABCD#16 ∧ encode (.pack32 0x1234#16 0xABCD#16) = 0b0001000010101011110011010001001000110100#40 := by decide
theorem test_decode_unpack32 :
    decode 0b0010000010101011110011010001001000110100#40 = .unpack32 0xABCD#16 0x1234#16 ∧ encode (.unpack32 0xABCD#16 0x1234#16) = 0b0010000010101011110011010001001000110100#40 := by decide
theorem test_decode_invalid_mode_04_07 :
    decode 0b0000011010101011110011010001001000110100#40 = .invalidMode04_07 0x06#8 0xABCD1234#32 ∧ encode (.invalidMode04_07 0x06#8 0xABCD1234#32) = 0b0000011010101011110011010001001000110100#40 := by decide
theorem test_decode_invalid_mode_08_0F :
    decode 0b0000110110101011110011010001001000110100#40 = .invalidMode08_0F 0x0D#8 0xABCD1234#32 ∧ encode (.invalidMode08_0F 0x0D#8 0xABCD1234#32) = 0b0000110110101011110011010001001000110100#40 := by decide
theorem test_decode_illegal_11_11 :
    decode 0b0001000110101011110011010001001000110100#40 = .illegal11_11 0xABCD1234#32 ∧ encode (.illegal11_11 0xABCD1234#32) = 0b0001000110101011110011010001001000110100#40 := by decide
theorem test_decode_illegal_12_13 :
    decode 0b0001001110101011110011010001001000110100#40 = .illegal12_13 0x13#8 0xABCD1234#32 ∧ encode (.illegal12_13 0x13#8 0xABCD1234#32) = 0b0001001110101011110011010001001000110100#40 := by decide
theorem test_decode_illegal_14_17 :
    decode 0b0001010110101011110011010001001000110100#40 = .illegal14_17 0x15#8 0xABCD1234#32 ∧ encode (.illegal14_17 0x15#8 0xABCD1234#32) = 0b0001010110101011110011010001001000110100#40 := by decide
theorem test_decode_illegal_18_1F :
    decode 0b0001111110101011110011010001001000110100#40 = .illegal18_1F 0x1F#8 0xABCD1234#32 ∧ encode (.illegal18_1F 0x1F#8 0xABCD1234#32) = 0b0001111110101011110011010001001000110100#40 := by decide
theorem test_decode_illegal_21_21 :
    decode 0b0010000110101011110011010001001000110100#40 = .illegal21_21 0xABCD1234#32 ∧ encode (.illegal21_21 0xABCD1234#32) = 0b0010000110101011110011010001001000110100#40 := by decide
theorem test_decode_illegal_22_23 :
    decode 0b0010001010101011110011010001001000110100#40 = .illegal22_23 0x22#8 0xABCD1234#32 ∧ encode (.illegal22_23 0x22#8 0xABCD1234#32) = 0b0010001010101011110011010001001000110100#40 := by decide
theorem test_decode_illegal_24_27 :
    decode 0b0010011010101011110011010001001000110100#40 = .illegal24_27 0x26#8 0xABCD1234#32 ∧ encode (.illegal24_27 0x26#8 0xABCD1234#32) = 0b0010011010101011110011010001001000110100#40 := by decide
theorem test_decode_illegal_28_2F :
    decode 0b0010111110101011110011010001001000110100#40 = .illegal28_2F 0x2F#8 0xABCD1234#32 ∧ encode (.illegal28_2F 0x2F#8 0xABCD1234#32) = 0b0010111110101011110011010001001000110100#40 := by decide
theorem test_decode_illegal_30_3F :
    decode 0b0011101010101011110011010001001000110100#40 = .illegal30_3F 0x3A#8 0xABCD1234#32 ∧ encode (.illegal30_3F 0x3A#8 0xABCD1234#32) = 0b0011101010101011110011010001001000110100#40 := by decide
theorem test_decode_illegal_40_7F :
    decode 0b0111111110101011110011010001001000110100#40 = .illegal40_7F 0x7F#8 0xABCD1234#32 ∧ encode (.illegal40_7F 0x7F#8 0xABCD1234#32) = 0b0111111110101011110011010001001000110100#40 := by decide
theorem test_decode_illegal_80_FF :
    decode 0b1000000010101011110011010001001000110100#40 = .illegal80_FF 0x80#8 0xABCD1234#32 ∧ encode (.illegal80_FF 0x80#8 0xABCD1234#32) = 0b1000000010101011110011010001001000110100#40 := by decide

/-- R26: the frame's bytes in stream order; the byte after them is `OP` (log 12). -/
theorem test_decode_bytes :
    (match decodeBytes [0x64#8, 0x00#8, 0x32#8, 0x00#8, 0x10#8] with
      | .ok i => i == .pack32 100#16 50#16 | .error _ => false) = true ∧
    (match decodeBytes [0x64#8, 0x00#8] with
      | .ok _ => false | .error e => e == .notFiveBytes 2) = true := by decide

theorem test_decode_table_word :
    decodeTableWord 40 0x20004B0019 = some (.unpack32 0x004B#16 0x0019#16) ∧
    decodeTableWord 48 0x010000000000 = none := by decide

/-! ### Operations: rows of spec/95_test_vectors.md -/

/-- R50; M1, M16, M23. -/
theorem test_sell :
    responseTo 0x0000320064#40 = 0x0000000064#40 ∧
    responseTo 0x00FFCEFF9C#40 = 0x000000FF9C#40 ∧
    responseTo 0x007FFF8000#40 = 0x0000008000#40 := by decide
/-- R51; M1, M16. -/
theorem test_selr :
    responseTo 0x0100320064#40 = 0x0000000032#40 ∧
    responseTo 0x01FFCEFF9C#40 = 0x000000FFCE#40 := by decide
/-- R52; M1, M8, M15, M20, M21. -/
theorem test_mid :
    responseTo 0x0200320064#40 = 0x000000004B#40 ∧
    responseTo 0x020000FFFD#40 = 0x000000FFFE#40 ∧
    responseTo 0x02FFF80007#40 = 0x000000FFFF#40 ∧
    responseTo 0x027FFF7FFF#40 = 0x0000007FFF#40 ∧
    responseTo 0x0280008000#40 = 0x0000008000#40 := by decide
/-- R53; M1, M6, M22, M23. -/
theorem test_side :
    responseTo 0x0300320064#40 = 0x0000000019#40 ∧
    responseTo 0x0300010000#40 = 0x000000FFFF#40 ∧
    responseTo 0x0380007FFF#40 = 0x0000007FFF#40 ∧
    responseTo 0x037FFF8000#40 = 0x0000008000#40 := by decide
/-- R60; K1, K2, K16, K23. -/
theorem test_pack32 :
    responseTo 0x1000320064#40 = 0x00004B0019#40 ∧
    responseTo 0x1000640032#40 = 0x00004BFFE7#40 ∧
    responseTo 0x10FFCEFF9C#40 = 0x00FFB5FFE7#40 ∧
    responseTo 0x107FFF8000#40 = 0x00FFFF8000#40 := by decide
/-- R66; X1, X8, X10, X22, X20, X28. -/
theorem test_unpack32 :
    responseTo 0x20004B0019#40 = 0x0000320064#40 ∧
    responseTo 0x2000008000#40 = 0x007FFF8000#40 ∧
    responseTo 0x207FFF0001#40 = 0x007FFE7FFF#40 ∧
    responseTo 0x20FFB5FFE7#40 = 0x007FFF7FFF#40 ∧
    responseTo 0x2080008000#40 = 0x007FFF0000#40 ∧
    responseTo 0x2013889E58#40 = 0x007530B1E0#40 := by decide
/-- R54; E1 to E4. -/
theorem test_invalid_mode :
    responseTo 0x0400320064#40 = 0x0100000000#40 ∧
    responseTo 0x07FFFFFFFF#40 = 0x0100000000#40 ∧
    responseTo 0x0800000000#40 = 0x0100000000#40 ∧
    responseTo 0x0F12345678#40 = 0x0100000000#40 := by decide
/-- R44; E6, E7, E9, E11 to E13. -/
theorem test_illegal_request :
    responseTo 0x1100320064#40 = 0x0200000000#40 ∧
    responseTo 0x1F00320064#40 = 0x0200000000#40 ∧
    responseTo 0x21004B0019#40 = 0x0200000000#40 ∧
    responseTo 0x3000000000#40 = 0x0200000000#40 ∧
    responseTo 0x8000320064#40 = 0x0200000000#40 ∧
    responseTo 0xFFFFFFFFFF#40 = 0x0200000000#40 := by decide

/-- The datapath on the same rows: M15, K16, X10, X22, E1, E6. -/
theorem test_datapath :
    datapath 0x02FFF80007#40 = 0x000000FFFF#40 ∧ datapath 0x10FFCEFF9C#40 = 0x00FFB5FFE7#40 ∧
    datapath 0x207FFF0001#40 = 0x007FFE7FFF#40 ∧ datapath 0x20FFB5FFE7#40 = 0x007FFF7FFF#40 ∧
    datapath 0x0400320064#40 = 0x0100000000#40 ∧ datapath 0x1100320064#40 = 0x0200000000#40 := by decide

/-! ### Steps: program P4 of spec/95_test_vectors.md, one step at a time -/

/-- A reset system with this pending response, offered request and agenda. -/
def sys (pending : Option Response) (offered : Option Request) (agenda : List Event) : State :=
  { State.reset with pending := pending, offered := offered, agenda := agenda }

/-- What a step leaves pending and offered, and what has been delivered. -/
def after (s : State) : Option (Option Response × Option Request × List Response) :=
  (resultState (step s)).map fun t => (t.pending, t.offered, t.delivered)

/-- P4 step 1 (R22). -/
theorem test_step_accept :
    after (sys none none [.offer 0x0200320064#40]) = some (some 0x000000004B#40, none, []) := by decide

/-- P4 step 2: not accepted, a response is pending; the request stays on the port (R22, R88). -/
theorem test_step_offer_while_pending :
    after (sys (some 0x000000004B#40) none [.offer 0x0400320064#40])
      = some (some 0x000000004B#40, some 0x0400320064#40, []) := by decide

/-- P4 step 3 (R23). -/
theorem test_step_deliver :
    after (sys (some 0x000000004B#40) (some 0x0400320064#40) [.take])
      = some (none, some 0x0400320064#40, [0x000000004B#40]) := by decide

/-- P4 step 4: the request held on the port is accepted, and answered by InvalidMode (R54). -/
theorem test_step_accept_held :
    after (sys none (some 0x0400320064#40) []) = some (some 0x0100000000#40, none, []) := by decide

/-- P4 step 9: reset loses the pending response (R105); an offered request is not accepted (R110). -/
theorem test_step_reset :
    after (sys (some 0x0200000000#40) (some 0x1000320064#40) [.reset]) = some (none, none, []) := by decide

theorem test_fetch_word_runs :
    after (State.reset.withFetchWord 40 0x1000320064) = some (some 0x00004B0019#40, none, []) := by decide

/-! ### The host -/

/-- R25: the value 0x1F40 = 8000 in four bytes (header H1). -/
theorem test_little_endian :
    leBytes 4 8000 = [0x40#8, 0x1F#8, 0x00#8, 0x00#8] ∧ leNat [0x40#8, 0x1F#8, 0x00#8, 0x00#8] = 8000 := by decide

/-- The header H1 of spec/95_test_vectors.md. -/
def headerH1 : List Byte :=
  [0x52, 0x49, 0x46, 0x46, 0x34, 0x00, 0x00, 0x00, 0x57, 0x41, 0x56, 0x45, 0x66, 0x6D, 0x74, 0x20, 0x10, 0x00, 0x00, 0x00, 0x01, 0x00, 0x02, 0x00, 0x40, 0x1F, 0x00, 0x00, 0x00, 0x7D, 0x00, 0x00, 0x04, 0x00, 0x10, 0x00, 0x64, 0x61, 0x74, 0x61, 0x10, 0x00, 0x00, 0x00]

/-- The header H2. -/
def headerH2 : List Byte :=
  [0x52, 0x49, 0x46, 0x46, 0x34, 0x00, 0x00, 0x00, 0x57, 0x41, 0x56, 0x45, 0x66, 0x6D, 0x74, 0x20, 0x10, 0x00, 0x00, 0x00, 0x01, 0x00, 0x01, 0x00, 0x40, 0x1F, 0x00, 0x00, 0x00, 0x7D, 0x00, 0x00, 0x04, 0x00, 0x20, 0x00, 0x64, 0x61, 0x74, 0x61, 0x10, 0x00, 0x00, 0x00]

/-- The header H4. -/
def headerH4 : List Byte :=
  [0x52, 0x49, 0x46, 0x46, 0x30, 0x00, 0x00, 0x00, 0x57, 0x41, 0x56, 0x45, 0x66, 0x6D, 0x74, 0x20, 0x10, 0x00, 0x00, 0x00, 0x01, 0x00, 0x01, 0x00, 0x40, 0x1F, 0x00, 0x00, 0x80, 0x3E, 0x00, 0x00, 0x02, 0x00, 0x10, 0x00, 0x64, 0x61, 0x74, 0x61, 0x0C, 0x00, 0x00, 0x00]

/-- H1, H2 and H4 (R75, R76, R78). -/
theorem test_write_header :
    writeHeader 2 8000 16 16 = headerH1 ∧ writeHeader 1 8000 32 16 = headerH2 ∧
    writeHeader 1 8000 16 12 = headerH4 := by decide

/-- The field-by-field reading of H1 under its table (R77). -/
theorem test_read_header :
    (match readHeader headerH1 with
      | .ok h => h == ⟨52, 1, 2, 8000, 32000, 4, 16, 16⟩ | .error _ => false) = true := by decide

/-- The payload of P1: four 16-bit stereo frames. -/
def payloadP1 : List Byte :=
  [0x64, 0x00, 0x32, 0x00, 0x9C, 0xFF, 0xCE, 0xFF, 0x65, 0x00, 0x32, 0x00, 0xE0, 0xB1, 0x30, 0x75]

/-- The payload P1 produces. -/
def payloadP2 : List Byte :=
  [0x19, 0x00, 0x4B, 0x00, 0xE7, 0xFF, 0xB5, 0xFF, 0x19, 0x00, 0x4B, 0x00, 0x58, 0x9E, 0x88, 0x13]

/-- The payload P2 produces. -/
def payloadP2Out : List Byte :=
  [0x64, 0x00, 0x32, 0x00, 0xFF, 0x7F, 0xFF, 0x7F, 0x64, 0x00, 0x32, 0x00, 0xE0, 0xB1, 0x30, 0x75]

/-- P1: the requests of `stereo_to_coded32`, in frame order (R48, R81). -/
theorem test_plan_p1 :
    (match planCall .refuse (.stereoToCoded32 (headerH1 ++ payloadP1)) with
      | .ok (.drive r) => r == ⟨[0x1000320064#40, 0x10FFCEFF9C#40, 0x1000320065#40, 0x107530B1E0#40], 4, 1, 8000, 32⟩
      | _ => false) = true := by decide

/-- P1: the output stream the responses make (R86, R90). -/
theorem test_output_p1 :
    (Run.mk [] 4 1 8000 32).outputOf
      ([0x1000320064#40, 0x10FFCEFF9C#40, 0x1000320065#40, 0x107530B1E0#40].map responseTo)
      = headerH2 ++ payloadP2 := by decide

/-- P2: the payload `coded32_to_stereo` makes of P1's output. -/
theorem test_output_p2 :
    (match planCall .refuse (.coded32ToStereo (headerH2 ++ payloadP2)) with
      | .ok (.drive r) => r.outputOf (r.requests.map responseTo) == headerH1 ++ payloadP2Out
      | _ => false) = true := by decide

/-- P5: the merge of the two mono payloads of frames (100, 50) and (-20000, 30000) (R83). -/
theorem test_merge_p5 :
    (match planCall .refuse (.monoPairToStereo
        (outputStream 1 8000 16 [0x64, 0x00, 0xE0, 0xB1]) (outputStream 1 8000 16 [0x32, 0x00, 0x30, 0x75])) with
      | .ok (.write out) => out == outputStream 2 8000 16 [0x64, 0x00, 0x32, 0x00, 0xE0, 0xB1, 0x30, 0x75]
      | _ => false) = true := by decide

/-- R59: the mid of one 32-bit frame, (2147483647, -2147483648): the sum is -1, the floor half -1. -/
theorem test_software_mix_32 :
    softwareMix .mid 4 [0xFF, 0xFF, 0xFF, 0x7F, 0x00, 0x00, 0x00, 0x80] = [0xFF, 0xFF, 0xFF, 0xFF] := by decide

/-- What a failed plan reports. -/
def planError (c : Call) : Option HostError :=
  match planCall .refuse c with
  | .ok _ => none
  | .error e => some e

/-- S7, S5, and a bad mode before anything else (R82 to R85, R91, R94, R97). -/
theorem test_host_errors :
    planError (.stereoToCoded32 (writeHeader 2 8000 8 0)) = some .unsupportedFormatError ∧
    planError (.stereoToMono (writeHeader 1 8000 16 0) 0) = some .notStereoError ∧
    planError (.coded32ToStereo (writeHeader 2 8000 32 0)) = some .notMonoError ∧
    planError (.monoPairToStereo (writeHeader 1 8000 16 0) (writeHeader 1 8001 16 0))
      = some (.mismatchError .sampleRate) ∧
    planError (.stereoToMono [] 4) = some .invalidModeError ∧
    planError (.stereoToCoded32 (writeHeader 2 8000 16 3 ++ [1, 2, 3])) = some .formatError ∧
    planError (.stereoToCoded32 (writeHeader 2 8000 16 4 ++ [1, 2, 3])) = some .formatError := by decide

/-- R83, R94: the pair's only errors besides the channel count are its mismatches, at any depth: 12 bits at two sample
rates; 12 bits and 16; and two equal headers of 12 bits merge. -/
theorem test_mono_pair_any_depth :
    planError (.monoPairToStereo (writeHeader 1 8000 12 0) (writeHeader 1 8001 12 0))
      = some (.mismatchError .sampleRate) ∧
    planError (.monoPairToStereo (writeHeader 1 8000 12 0) (writeHeader 1 8000 16 0))
      = some (.mismatchError .bitsPerSample) ∧
    planError (.monoPairToStereo (writeHeader 1 8000 12 0) (writeHeader 1 8000 12 0)) = none := by decide

/-- R91: under `drop` the partial frame is ignored. -/
theorem test_trailing_drop :
    (match planCall .drop (.stereoToCoded32 (writeHeader 2 8000 16 6 ++ [100, 0, 50, 0, 7, 7])) with
      | .ok (.drive r) => r.requests == [0x1000320064#40]
      | _ => false) = true := by decide

/-- A call whose last response is taken writes its output and is done (R90). -/
theorem test_call_finishes :
    (resultState (step { State.reset with
        pending := some 0x00004B0019#40, accepted := [0x1000320064#40]
        host := .running ⟨[0x1000320064#40], 4, 1, 8000, 32⟩ })).map (fun t => (t.host, t.output))
      = some (.done, outputStream 1 8000 32 [0x19, 0x00, 0x4B, 0x00]) := by decide

/-- A `serve` on the agenda offers the next frame of the call, which is accepted at that edge; the reset behind it
then comes in the middle of the call (R81, R88). -/
theorem test_call_served_then_reset :
    (resultState (step { State.reset with
        agenda := [.serve, .reset], host := .running ⟨[0x1000320064#40], 4, 1, 8000, 32⟩ })).map
        (fun t => (t.pending, t.accepted, t.agenda))
      = some (some 0x00004B0019#40, [0x1000320064#40], [.reset]) := by decide

/-! ### Assembler text -/

/-- R46: `PACK32 100, 50` with a comment. -/
theorem test_assemble_pair :
    assemble ['P', 'A', 'C', 'K', '3', '2', ' ', '1', '0', '0', ',', ' ', '5', '0', ' ', ';', ' ', 'x'] = some 0x1000320064#40 ∧
    assemble ['S', 'E', 'L', 'L', ' ', '3', '2', '7', '6', '8', ',', ' ', '0'] = none := by decide

/-- R46: the two forms of UNPACK32 mean the same word; R47: a raw request. -/
theorem test_assemble_unpack_and_raw :
    assemble ['U', 'N', 'P', 'A', 'C', 'K', '3', '2', ' ', '0', 'x', '0', '0', '4', 'B', '0', '0', '1', '9'] = some 0x20004B0019#40 ∧
    assemble ['U', 'N', 'P', 'A', 'C', 'K', '3', '2', ' ', 'm', 'i', 'd', '=', '0', 'x', '0', '0', '4', 'B', ',', ' ', 's', 'i', 'd', 'e', '=', '0', 'x', '0', '0', '1', '9'] = some 0x20004B0019#40 ∧
    assemble ['.', 'r', 'e', 'q', ' ', '0', 'x', '0', '4', '_', '0', '0', '3', '2', '0', '0', '6', '4'] = some 0x0400320064#40 := by decide

/-- R47: a legal request by its mnemonic with decimal samples, any other as `.req`. -/
theorem test_disassemble :
    (disassemble 0x02FFF80007#40).text = ['M', 'I', 'D', ' ', '7', ',', ' ', '-', '8'] ∧
    (disassemble 0x0400320064#40).text = ['.', 'r', 'e', 'q', ' ', '0', 'x', '0', '4', '_', '0', '0', '3', '2', '0', '0', '6', '4'] := by decide

/-- R46: how a response is written. -/
theorem test_response_text :
    responseText 0x20004B0019#40 0x0000320064#40 = ['-', '>', ' ', 'O', 'K', ' ', '1', '0', '0', ',', ' ', '5', '0'] ∧
    responseText 0x1000320064#40 0x00004B0019#40 = ['-', '>', ' ', 'O', 'K', ' ', '0', 'x', '0', '0', '4', 'B', '0', '0', '1', '9'] := by decide

/-! ### Witnesses: for each statement with hypotheses, states and operands that meet them, at the ends of their ranges -/

theorem witness_DecodeOfEncodeIsIdentity :
    (Instr.unpack32 0xFFFF#16 0x8000#16).wf = true ∧
    (Instr.invalidMode04_07 0x04#8 0#32).wf = true ∧ (Instr.invalidMode08_0F 0x0F#8 0#32).wf = true ∧
    (Instr.illegal40_7F 0x40#8 0#32).wf = true ∧ (Instr.illegal80_FF 0xFF#8 0#32).wf = true := by decide

theorem witness_DecodingIsTotalByOpAlone :
    rspStatus (responseTo (mkRequest 0x04#8 0xFFFFFFFF#32)) ≠ 0x00#8 ∧
    rspStatus (responseTo (mkRequest 0xFF#8 0x00000000#32)) ≠ 0x00#8 := by decide

/-- MODE 4 and MODE 15 of the mixer. -/
theorem witness_TagsOutsideTheFourAnswerInvalidMode :
    (reqUnit 0x0400000000#40 = 0x0#4 ∧ 4 ≤ (reqMode 0x0400000000#40).toNat) ∧
    (reqUnit 0x0FFFFFFFFF#40 = 0x0#4 ∧ 4 ≤ (reqMode 0x0FFFFFFFFF#40).toNat) := by decide

/-- UNIT 1 and UNIT 2 with MODE 1 and 15; UNIT 3 and UNIT 15 with MODE 0 and 15. -/
theorem witness_UnassignedOpsAnswerIllegalRequest :
    (reqUnit 0x1100000000#40 = 0x1#4 ∧ reqMode 0x1100000000#40 ≠ 0x0#4) ∧
    (reqUnit 0x1FFFFFFFFF#40 = 0x1#4 ∧ reqMode 0x1FFFFFFFFF#40 ≠ 0x0#4) ∧
    (reqUnit 0x2100000000#40 = 0x2#4 ∧ reqMode 0x2100000000#40 ≠ 0x0#4) ∧
    (reqUnit 0x2FFFFFFFFF#40 = 0x2#4 ∧ reqMode 0x2FFFFFFFFF#40 ≠ 0x0#4) ∧
    3 ≤ (reqUnit 0x3000000000#40).toNat ∧ 3 ≤ (reqUnit 0xFFFFFFFFFF#40).toNat := by decide

/-- R7's own case: the greatest `q` with `2q ≤ -3` is -2; an odd negative number and an even one. -/
theorem witness_FdivTwoIsTheGreatestFloorHalf :
    2 * (-2 : Int) ≤ -3 ∧ fdiv2 (-3) = -2 ∧ ((-3 : Int) % 2 = 1 ∧ (-3 : Int) < 0) ∧ fdiv2 (-4) = -2 ∧
    fdiv2 3 = 1 := by decide

/-- R8 and R10 on both sides of each bound. -/
theorem witness_NarrowingsAndExtension :
    (trunc16 (-32768)).toInt = -32768 ∧ (trunc16 32767).toInt = 32767 ∧ (trunc16 32768).toInt = -32768 ∧
    sext16 0x7FFF#16 = 32767 ∧ sext16 0x8000#16 = -32768 ∧
    sat16 (-32769) = -32768 ∧ sat16 (-32768) = -32768 ∧ sat16 32767 = 32767 ∧ sat16 32768 = 32767 := by decide

/-- R72 at the bound: sum 32767 is kept (X9: mid 32767, side 0), 32768 clamps (X10: side 1), difference 32768 clamps
(X11: side -1), and mid 32768 clamps (X17). -/
theorem witness_OnlyTheUpperClampFires :
    responseTo 0x207FFF0000#40 = 0x007FFF7FFF#40 ∧ responseTo 0x207FFF0001#40 = 0x007FFE7FFF#40 ∧
    responseTo 0x207FFFFFFF#40 = 0x007FFF7FFE#40 ∧ responseTo 0x2080000000#40 = 0x007FFF7FFF#40 := by decide

/-- R71 where its clauses meet: sum 0, sum -1, and an odd positive sum. -/
theorem witness_PackThenUnpackRoundTrip :
    (lowHalf 0xFFFF0001#32).toInt + (highHalf 0xFFFF0001#32).toInt = 0 ∧
    (lowHalf 0xFFFF0000#32).toInt + (highHalf 0xFFFF0000#32).toInt = -1 ∧
    ((lowHalf 0x00000001#32).toInt + (highHalf 0x00000001#32).toInt) % 2 = 1 ∧
    rspData (responseTo (mkRequest 0x20#8 (rspData (responseTo (mkRequest 0x10#8 0xFFFF0001#32))))) = 0xFFFF0001#32 ∧
    rspData (responseTo (mkRequest 0x20#8 (rspData (responseTo (mkRequest 0x10#8 0xFFFF0000#32))))) = 0x7FFF7FFF#32 ∧
    rspData (responseTo (mkRequest 0x20#8 (rspData (responseTo (mkRequest 0x10#8 0x00000001#32))))) = 0x00000000#32 := by
  decide

theorem witness_StepRunsTheDecodedRequest :
    hostMove (sys none none [.offer 0x0400320064#40, .take])
      = (.edge false, sys none (some 0x0400320064#40) [.take]) ∧
    (sys none (some 0x0400320064#40) [.take]).pending = none ∧
    (sys none (some 0x0400320064#40) [.take]).offered = some 0x0400320064#40 := by decide

theorem witness_FetchedWordRunsNext : (0 : Nat) < 2 ^ 40 ∧ 0xFFFFFFFFFF < 2 ^ 40 := by decide

theorem witness_AcceptExactlyWhenNothingIsPending :
    ((sys none (some 0x0200320064#40) [.wait]).agenda = [.wait] ∧
      (sys none (some 0x0200320064#40) [.wait]).offered = some 0x0200320064#40 ∧
      (sys none (some 0x0200320064#40) [.wait]).pending = none) ∧
    ((sys (some 0x000000004B#40) (some 0x0400320064#40) [.wait]).agenda = [.wait] ∧
      (sys (some 0x000000004B#40) (some 0x0400320064#40) [.wait]).offered = some 0x0400320064#40 ∧
      (sys (some 0x000000004B#40) (some 0x0400320064#40) [.wait]).pending = some 0x000000004B#40) := by decide

/-- An idle host runs no call. -/
theorem sys_runs_no_call (pending : Option Response) (offered : Option Request) (agenda : List Event) (r : Run) :
    (sys pending offered agenda).host ≠ .running r := nofun

/-- A host in the middle of a one-frame call, its response pending. -/
def servingState (agenda : List Event) : State :=
  { State.reset with
    pending := some 0x00004B0019#40, accepted := [0x1000320064#40], agenda := agenda
    host := .running ⟨[0x1000320064#40], 4, 1, 8000, 32⟩ }

theorem witness_DeliverExactlyWhenPending :
    ((∀ r, (sys (some 0x000000004B#40) none [.take]).host ≠ .running r) ∧
      (sys (some 0x000000004B#40) none [.take]).agenda = [.take] ∧
      (sys (some 0x000000004B#40) none [.take]).pending = some 0x000000004B#40) ∧
    ((∀ r, (sys none none [.take]).host ≠ .running r) ∧ (sys none none [.take]).agenda = [.take] ∧
      (sys none none [.take]).pending = none ∧ (sys none none [.take]).offered = none) ∧
    ((servingState []).host = .running ⟨[0x1000320064#40], 4, 1, 8000, 32⟩ ∧ (servingState []).agenda = [] ∧
      (servingState []).pending = some 0x00004B0019#40) :=
  ⟨⟨sys_runs_no_call _ _ _, by decide⟩, ⟨sys_runs_no_call _ _ _, by decide⟩, by decide⟩

theorem witness_ResetLosesThePendingResponse :
    (servingState [.reset, .take]).agenda = .reset :: [.take] := by decide

/-- The request of that call is answered by OK. -/
theorem one_request_legal : ∀ q ∈ [0x1000320064#40], rspStatus (responseTo q) = 0x00#8 := by
  intro q hq
  cases List.mem_singleton.1 hq
  decide

/-- A state with the invariant that is not the reset state: a call in progress, its response pending. -/
theorem servingState_inv : (servingState []).Inv := by
  refine ⟨by unfold State.orderly; decide, ?_, nofun⟩
  intro r hr
  cases hr
  exact ⟨by decide, by decide, nofun, one_request_legal⟩

/-- Its next step ends the call and writes the output. -/
theorem witness_StepKeepsTheInvariant :
    (servingState []).Inv ∧ (resultState (step (servingState []))).isSome = true :=
  ⟨servingState_inv, by decide⟩

theorem witness_OutputChangesOnlyWhenACallIsDone :
    (servingState []).Inv ∧
    (resultState (step (servingState []))).map (fun t => decide (t.output ≠ (servingState []).output)) = some true :=
  ⟨servingState_inv, by decide⟩

theorem witness_ErrorIsNotLatched :
    (∀ r, (sys (some 0x0200000000#40) none [.take, .offer 0x0200320064#40]).host ≠ .running r) ∧
    (sys (some 0x0200000000#40) none [.take, .offer 0x0200320064#40]).pending = some 0x0200000000#40 ∧
    (sys (some 0x0200000000#40) none [.take, .offer 0x0200320064#40]).offered = none ∧
    (sys (some 0x0200000000#40) none [.take, .offer 0x0200320064#40]).agenda = [.take, .offer 0x0200320064#40] :=
  ⟨sys_runs_no_call _ _ _, by decide⟩

theorem witness_WaitingHostLosesNothing :
    ((servingState [.wait]).pending = some 0x00004B0019#40 ∧ (servingState [.wait]).agenda = .wait :: []) ∧
    ((sys (some 0x000000004B#40) none []).pending = some 0x000000004B#40 ∧
      (∀ r, (sys (some 0x000000004B#40) none []).host ≠ .running r) ∧
      (sys (some 0x000000004B#40) none []).agenda = []) :=
  ⟨by decide, by decide, sys_runs_no_call _ _ _, by decide⟩

/-- A stereo file of one frame, (100, 50). -/
def oneFrame : List Byte := outputStream 2 8000 16 [0x64, 0x00, 0x32, 0x00]

/-- The plan of its conversion, whatever the policy for partial frames. -/
theorem oneFrame_plan (p : TrailingPolicy) :
    planCall p (.stereoToCoded32 oneFrame) = .ok (.drive ⟨[0x1000320064#40], 4, 1, 8000, 32⟩) := by
  cases p <;> rfl

theorem witness_ConverterRequestsAreNeverErrors :
    planCall .refuse (.stereoToCoded32 oneFrame) = .ok (.drive ⟨[0x1000320064#40], 4, 1, 8000, 32⟩) :=
  oneFrame_plan _

/-- The premises of a completed call, on the reset state with that one call to make. -/
theorem witness_ConverterCallCompletes :
    (∀ r, (sys none none [.call (.stereoToCoded32 oneFrame)]).host ≠ .running r) ∧
    (sys none none [.call (.stereoToCoded32 oneFrame)]).pending = none ∧
    (sys none none [.call (.stereoToCoded32 oneFrame)]).offered = none ∧
    (sys none none [.call (.stereoToCoded32 oneFrame)]).agenda = [.call (.stereoToCoded32 oneFrame)] ∧
    planCall Config.trailingPolicy (.stereoToCoded32 oneFrame)
      = .ok (.drive ⟨[0x1000320064#40], 4, 1, 8000, 32⟩) :=
  ⟨sys_runs_no_call _ _ _, rfl, rfl, rfl, oneFrame_plan _⟩

theorem witness_ResetRestartsTheCall :
    (servingState [.reset]).host = .running ⟨[0x1000320064#40], 4, 1, 8000, 32⟩ ∧
    [0x1000320064#40] ≠ [] ∧ (∀ q ∈ [0x1000320064#40], rspStatus (responseTo q) = 0x00#8) ∧
    (servingState [.reset]).agenda = [.reset] := ⟨rfl, by decide, one_request_legal, rfl⟩

/-- A mode selector outside the four fails its check (R82). -/
theorem witness_FailedCheckWritesNothing :
    (∀ r, (sys none none [.call (.stereoToMono oneFrame 4), .reset]).host ≠ .running r) ∧
    (sys none none [.call (.stereoToMono oneFrame 4), .reset]).pending = none ∧
    (sys none none [.call (.stereoToMono oneFrame 4), .reset]).offered = none ∧
    (sys none none [.call (.stereoToMono oneFrame 4), .reset]).agenda
      = .call (.stereoToMono oneFrame 4) :: [.reset] ∧
    planCall Config.trailingPolicy (.stereoToMono oneFrame 4) = .error .invalidModeError :=
  ⟨sys_runs_no_call _ _ _, rfl, rfl, rfl, rfl⟩

/-- A header of such a file, its payload read in full. -/
def hdr (channels bits size : Nat) : Header :=
  ⟨36 + size, 1, channels, 8000, 8000 * (channels * (bits / 8)), channels * (bits / 8), bits, size⟩

/-- The files the host's statements are about open with the header they were written with. -/
theorem open_one_frame : openInput oneFrame = .ok (hdr 2 16 4) := by rfl
theorem open_no_frame : openInput (outputStream 2 8000 16 []) = .ok (hdr 2 16 0) := by rfl
theorem open_coded : openInput (outputStream 1 8000 32 [0x19, 0x00, 0x4B, 0x00]) = .ok (hdr 1 32 4) := by rfl
theorem open_stereo_8 : openInput (outputStream 2 8000 8 []) = .ok (hdr 2 8 0) := by rfl
theorem open_mono_16 : openInput (outputStream 1 8000 16 [0x64, 0x00]) = .ok (hdr 1 16 2) := by rfl
theorem open_mono_16_empty : openInput (outputStream 1 8000 16 []) = .ok (hdr 1 16 0) := by rfl
theorem open_other_rate :
    openInput (outputStream 1 8001 16 []) = .ok ⟨36, 1, 1, 8001, 16002, 2, 16, 0⟩ := by rfl
theorem open_mono_12 : openInput (outputStream 1 8000 12 [0x64]) = .ok (hdr 1 12 1) := by rfl
theorem open_partial : openInput (outputStream 2 8000 16 [0x64, 0x00, 0x32, 0x00, 0x07]) = .ok (hdr 2 16 5) := by rfl

/-- Both clauses: a stereo file of one frame and of none, a coded file of one frame. -/
theorem witness_PlanHasOneRequestPerFrame :
    (openInput oneFrame = .ok (hdr 2 16 4) ∧ (hdr 2 16 4).dataSize % 4 = 0 ∧
      (hdr 2 16 4).channelCount = 2 ∧ (hdr 2 16 4).bitsPerSample = 16) ∧
    (openInput (outputStream 2 8000 16 []) = .ok (hdr 2 16 0) ∧ (hdr 2 16 0).dataSize % 4 = 0) ∧
    (openInput (outputStream 1 8000 32 [0x19, 0x00, 0x4B, 0x00]) = .ok (hdr 1 32 4) ∧
      (hdr 1 32 4).dataSize % 4 = 0 ∧ (hdr 1 32 4).channelCount = 1 ∧ (hdr 1 32 4).bitsPerSample = 32) :=
  ⟨⟨open_one_frame, by decide⟩, ⟨open_no_frame, by decide⟩, open_coded, by decide⟩

/-- One file for each clause: tags 4 and 15; mono for the stereo converters; stereo of 8 bits; stereo for the mono
converters; mono of 16 bits. -/
theorem witness_ConvertersRejectTheWrongFormat :
    (4 ≤ (0x4#4).toNat ∧ 4 ≤ (0xF#4).toNat ∧ (0x3#4).toNat < 4) ∧
    (openInput (outputStream 1 8000 16 [0x64, 0x00]) = .ok (hdr 1 16 2) ∧ (hdr 1 16 2).channelCount ≠ 2) ∧
    (openInput (outputStream 2 8000 8 []) = .ok (hdr 2 8 0) ∧ (hdr 2 8 0).channelCount = 2 ∧
      (hdr 2 8 0).bitsPerSample ≠ 16) ∧
    (openInput oneFrame = .ok (hdr 2 16 4) ∧ (hdr 2 16 4).channelCount ≠ 1 ∧
      openInput (outputStream 1 8000 16 [0x64, 0x00]) = .ok (hdr 1 16 2)) ∧
    ((hdr 1 16 2).channelCount = 1 ∧ (hdr 1 16 2).bitsPerSample ≠ 32) :=
  ⟨by decide, ⟨open_mono_16, by decide⟩, ⟨open_stereo_8, by decide⟩, ⟨open_one_frame, by decide, open_mono_16⟩,
    by decide⟩

/-- Mono files that differ in the sample rate, in the depth (16 and 32 bits, 12 and 16 bits), and in the size only. -/
theorem witness_MonoPairMismatchIsNamed :
    (openInput (outputStream 1 8000 16 []) = .ok (hdr 1 16 0) ∧
      openInput (outputStream 1 8001 16 []) = .ok ⟨36, 1, 1, 8001, 16002, 2, 16, 0⟩ ∧ (8000 : Nat) ≠ 8001) ∧
    (openInput (outputStream 1 8000 32 [0x19, 0x00, 0x4B, 0x00]) = .ok (hdr 1 32 4) ∧
      (hdr 1 16 0).sampleRate = (hdr 1 32 4).sampleRate ∧ (hdr 1 16 0).bitsPerSample ≠ (hdr 1 32 4).bitsPerSample) ∧
    (openInput (outputStream 1 8000 12 [0x64]) = .ok (hdr 1 12 1) ∧ (hdr 1 12 1).channelCount = 1 ∧
      (hdr 1 12 1).sampleRate = (hdr 1 16 0).sampleRate ∧ (hdr 1 12 1).bitsPerSample ≠ (hdr 1 16 0).bitsPerSample) ∧
    (openInput (outputStream 1 8000 16 [0x64, 0x00]) = .ok (hdr 1 16 2) ∧
      (hdr 1 16 0).sampleRate = (hdr 1 16 2).sampleRate ∧ (hdr 1 16 0).bitsPerSample = (hdr 1 16 2).bitsPerSample ∧
      (hdr 1 16 0).dataSize ≠ (hdr 1 16 2).dataSize) :=
  ⟨⟨open_mono_16_empty, open_other_rate, by decide⟩, ⟨open_coded, by decide⟩, ⟨open_mono_12, by decide⟩,
    open_mono_16, by decide⟩

theorem open_coded_partial :
    openInput (outputStream 1 8000 32 [0x19, 0x00, 0x4B, 0x00, 0x07]) = .ok (hdr 1 32 5) := by rfl
theorem open_stereo_32_partial :
    openInput (outputStream 2 8000 32 [1, 0, 0, 0, 2, 0, 0, 0, 3, 0, 0, 0]) = .ok (hdr 2 32 12) := by rfl
theorem open_stereo_32 : openInput (outputStream 2 8000 32 [1, 0, 0, 0, 2, 0, 0, 0]) = .ok (hdr 2 32 8) := by rfl
theorem open_stereo_32_empty : openInput (outputStream 2 8000 32 []) = .ok (hdr 2 32 0) := by rfl
theorem open_mono_16_partial : openInput (outputStream 1 8000 16 [0x64, 0x00, 0x07]) = .ok (hdr 1 16 3) := by rfl

/-- One file for each clause: 16-bit stereo of a frame and a byte, the same in coded samples, 32-bit stereo of a frame
and a half, and 16-bit mono of a frame and a byte. -/
theorem witness_PartialFrameIsRefusedOrDropped :
    (openInput (outputStream 2 8000 16 [0x64, 0x00, 0x32, 0x00, 0x07]) = .ok (hdr 2 16 5) ∧
      (hdr 2 16 5).dataSize % 4 ≠ 0 ∧ (hdr 2 16 5).channelCount = 2 ∧ (hdr 2 16 5).bitsPerSample = 16 ∧
      (0x0#4).toNat < 4 ∧ (0x3#4).toNat < 4) ∧
    (openInput (outputStream 1 8000 32 [0x19, 0x00, 0x4B, 0x00, 0x07]) = .ok (hdr 1 32 5) ∧
      (hdr 1 32 5).dataSize % 4 ≠ 0 ∧ (hdr 1 32 5).channelCount = 1 ∧ (hdr 1 32 5).bitsPerSample = 32) ∧
    (openInput (outputStream 2 8000 32 [1, 0, 0, 0, 2, 0, 0, 0, 3, 0, 0, 0]) = .ok (hdr 2 32 12) ∧
      (hdr 2 32 12).dataSize % 8 ≠ 0 ∧ (hdr 2 32 12).channelCount = 2 ∧ (hdr 2 32 12).bitsPerSample = 32) ∧
    (openInput (outputStream 1 8000 16 [0x64, 0x00, 0x07]) = .ok (hdr 1 16 3) ∧ (hdr 1 16 3).channelCount = 1 ∧
      (hdr 1 16 3).dataSize % ((hdr 1 16 3).bitsPerSample / 8) ≠ 0) :=
  ⟨⟨open_partial, by decide⟩, ⟨open_coded_partial, by decide⟩, ⟨open_stereo_32_partial, by decide⟩,
    open_mono_16_partial, by decide⟩

/-- Both clauses: 32-bit stereo of one frame and of none, and 16-bit mono of one frame. -/
theorem witness_SoftwarePathsWriteTheWholeOutput :
    (openInput (outputStream 2 8000 32 [1, 0, 0, 0, 2, 0, 0, 0]) = .ok (hdr 2 32 8) ∧
      (hdr 2 32 8).dataSize % 8 = 0 ∧ (hdr 2 32 8).channelCount = 2 ∧ (hdr 2 32 8).bitsPerSample = 32) ∧
    (openInput (outputStream 2 8000 32 []) = .ok (hdr 2 32 0) ∧ (hdr 2 32 0).dataSize % 8 = 0) ∧
    (openInput (outputStream 1 8000 16 [0x64, 0x00]) = .ok (hdr 1 16 2) ∧ (hdr 1 16 2).channelCount = 1 ∧
      (hdr 1 16 2).dataSize % ((hdr 1 16 2).bitsPerSample / 8) = 0) :=
  ⟨⟨open_stereo_32, by decide⟩, ⟨open_stereo_32_empty, by decide⟩, open_mono_16, by decide⟩

/-- Two mono files of no frames: a merge that reads no policy. -/
theorem witness_CallWithoutRequestsWritesItsOutput :
    let c : Call := .monoPairToStereo (outputStream 1 8000 16 []) (outputStream 1 8000 16 [])
    (∀ r, (sys none none [.call c, .reset]).host ≠ .running r) ∧
    (sys none none [.call c, .reset]).pending = none ∧ (sys none none [.call c, .reset]).offered = none ∧
    (sys none none [.call c, .reset]).agenda = .call c :: [.reset] ∧
    planCall Config.trailingPolicy c = .ok (.write (outputStream 2 8000 16 [])) :=
  ⟨sys_runs_no_call _ _ _, rfl, rfl, rfl, rfl⟩

/-- No space and no comment; a space and a comment. -/
theorem witness_LineTextReadsBack :
    ((∀ c ∈ ([] : List Char), c = ' ') ∧ ([] : List Char) = []) ∧
    ((∀ c ∈ [' '], c = ' ') ∧ [';', 'x'].head? = some ';') ∧
    readLine ((AsmLine.pair .mid (-3) 0).text ++ [' '] ++ [';', 'x']) = some (.pair .mid (-3) 0) :=
  ⟨⟨by simp, rfl⟩, ⟨by simp, rfl⟩, by decide⟩

/-- The largest values of the fields: the products and the total size leave their low bits. -/
theorem witness_WrittenHeaderReadsBack :
    ((65535 : Nat) < 2 ^ 16 ∧ (4294967295 : Nat) < 2 ^ 32) ∧
    readHeader (writeHeader 65535 4294967295 65535 4294967295)
      = .ok ⟨35, 1, 65535, 4294967295, 4294967295 * (65535 * 8191) % 2 ^ 32, 65535 * 8191 % 2 ^ 16, 65535,
          4294967295⟩ := ⟨by decide, by rfl⟩

theorem witness_ResponseBytesStandAtTheirFrame :
    1 < [0x0012345678#40, 0x009ABCDEF0#40].length ∧
    streamBytes (resultPayload 4 [0x0012345678#40, 0x009ABCDEF0#40]) (1 * 4) 4
      = [0xF0#8, 0xDE#8, 0xBC#8, 0x9A#8] := by decide

/-- Two frames, and none. -/
theorem witness_SplitThenMergeReproducesTheFile :
    (8000 : Nat) < 2 ^ 32 ∧ ([0x64#8, 0x00#8, 0x32#8, 0x00#8, 0xE0#8, 0xB1#8, 0x30#8, 0x75#8] : List Byte).length = 4 * 2 ∧
    ([] : List Byte).length = 4 * 0 ∧ (8 : Nat) < 2 ^ 32 := by decide

theorem witness_AssemblerTakesSampleRangeOnly :
    (AsmLine.pair .mid (-32768) 32767).request = some 0x027FFF8000#40 ∧
    (AsmLine.pair .mid (-32769) 0).request = none ∧ (AsmLine.pair .mid 0 32768).request = none := by decide

end Sys2Proof.Tests
end

section
/-! PROOFS for spec/00_scope.md: the arithmetic primitives (R7 to R10), their bit-level counterparts (R56, R66), and the
agreement of the datapath with the specification on every request word. -/

namespace Sys2Proof.Machine

/-! ### Floor half, truncation and saturation -/

/-- The arithmetic right shift by one is the floor half (R7 "arithmetic right shift"). -/
theorem toInt_sshiftRight_one {w : Nat} (v : BitVec w) : (v.sshiftRight 1).toInt = fdiv2 v.toInt := by
  rw [BitVec.toInt_sshiftRight, Int.shiftRight_eq_div_pow]; rfl

/-- Truncation toward zero exceeds the floor half by one exactly on odd negative integers (R7). -/
theorem fdiv2_eq_tdiv (n : Int) : fdiv2 n = if n % 2 = 1 ∧ n < 0 then n.tdiv 2 - 1 else n.tdiv 2 := by
  have sign_two : Int.sign 2 = 1 := rfl
  rw [Int.tdiv_eq_ediv, sign_two, fdiv2]
  split_ifs <;> omega

/-- Settles O17: the greatest-integer clauses are the bounds of `fdiv2`, the rest its two other readings. -/
theorem fdivTwoIsTheGreatestFloorHalf : Obligations.FdivTwoIsTheGreatestFloorHalf := by
  refine ⟨fun n => ?_, fun w v => (toInt_sshiftRight_one v).symm⟩
  obtain ⟨lower, upper⟩ := fdiv2_bounds n
  exact ⟨lower, fun q hq => by omega, fdiv2_eq_tdiv n⟩

/-- `trunc16(n)` has unsigned value `n mod 65536` (R8). -/
theorem toNat_trunc16 (n : Int) : ((trunc16 n).toNat : Int) = n % 65536 := by
  rw [trunc16, BitVec.toNat_ofInt]
  exact Int.toNat_of_nonneg (by omega)

/-- `sext16` in terms of the unsigned value (R9). -/
theorem sext16_eq_toNat (t : Sample) :
    sext16 t = if t.toNat ≤ 32767 then (t.toNat : Int) else (t.toNat : Int) - 65536 := by
  rw [sext16, BitVec.toInt_eq_toNat_cond]; split_ifs <;> omega

/-- Settles O18: one lemma for each primitive; `sat16` is its definition at the values of its two bounds. -/
theorem narrowingsAndExtension : Obligations.NarrowingsAndExtension :=
  ⟨fun n => ⟨toNat_trunc16 n, sext16_trunc16 n⟩, sext16_eq_toNat, fun _ => rfl⟩

/-! ### The datapath's adders, shift and clamp -/

/-- A sample sign-extended to 17 or more bits keeps its signed value (R9). -/
theorem toInt_signExtend_sample (t : Sample) {w : Nat} (hw : 16 ≤ w) : (t.signExtend w).toInt = sext16 t :=
  BitVec.toInt_signExtend_of_le hw

/-- A sample zero-extended to 18 bits has its unsigned value. -/
theorem toInt_zeroExtend_sample (t : Sample) : (t.zeroExtend 18).toInt = t.toNat := by
  have ht := t.isLt
  rw [BitVec.toInt_setWidth]
  exact Int.bmod_eq_of_le (by omega) (by omega)

/-- The 17-bit sum does not overflow (R56). -/
theorem toInt_sum17 (l r : Sample) : (l.signExtend 17 + r.signExtend 17).toInt = sext16 l + sext16 r := by
  have hl := sext16_range l
  have hr := sext16_range r
  rw [BitVec.toInt_add, toInt_signExtend_sample l (by decide), toInt_signExtend_sample r (by decide)]
  exact Int.bmod_eq_of_le (by omega) (by omega)

/-- The 17-bit difference does not overflow (R56). -/
theorem toInt_diff17 (l r : Sample) : (l.signExtend 17 - r.signExtend 17).toInt = sext16 l - sext16 r := by
  have hl := sext16_range l
  have hr := sext16_range r
  rw [BitVec.toInt_sub, toInt_signExtend_sample l (by decide), toInt_signExtend_sample r (by decide)]
  exact Int.bmod_eq_of_le (by omega) (by omega)

/-- The 18-bit sum of an unsigned mid and a signed side does not overflow (R66). -/
theorem toInt_sum18 (m d : Sample) : (m.zeroExtend 18 + d.signExtend 18).toInt = m.toNat + sext16 d := by
  have hm := m.isLt
  have hd := sext16_range d
  rw [BitVec.toInt_add, toInt_zeroExtend_sample, toInt_signExtend_sample d (by decide)]
  exact Int.bmod_eq_of_le (by omega) (by omega)

/-- The 18-bit difference of an unsigned mid and a signed side does not overflow (R66). -/
theorem toInt_diff18 (m d : Sample) : (m.zeroExtend 18 - d.signExtend 18).toInt = m.toNat - sext16 d := by
  have hm := m.isLt
  have hd := sext16_range d
  rw [BitVec.toInt_sub, toInt_zeroExtend_sample, toInt_signExtend_sample d (by decide)]
  exact Int.bmod_eq_of_le (by omega) (by omega)

/-- Bits 16:1 of a 17-bit word are its floor half (R56): `v[16:1]` drops the lowest bit. -/
theorem extractLsb'_one_eq_fdiv2 (v : BitVec 17) : v.extractLsb' 1 16 = trunc16 (fdiv2 v.toInt) := by
  have value := BitVec.toInt_eq_toNat_cond v
  have half := toNat_trunc16 (fdiv2 v.toInt)
  obtain ⟨lower, upper⟩ := fdiv2_bounds v.toInt
  apply BitVec.eq_of_toNat_eq
  rw [BitVec.extractLsb'_toNat, Nat.shiftRight_eq_div_pow]
  split_ifs at value <;> omega

/-- Bits 15:0 of an 18-bit word are its truncation (R8). -/
theorem extractLsb'_zero_eq_trunc16 (v : BitVec 18) : v.extractLsb' 0 16 = trunc16 v.toInt := by
  have value := BitVec.toInt_eq_toNat_cond v
  have low := toNat_trunc16 v.toInt
  apply BitVec.eq_of_toNat_eq
  rw [BitVec.extractLsb'_toNat, Nat.shiftRight_zero]
  split_ifs at value <;> omega

/-- The datapath's half-sum is the truncated floor half of the sum (R56). -/
theorem halfSum17_eq (l r : Sample) : halfSum17 l r = trunc16 (fdiv2 (sext16 l + sext16 r)) := by
  rw [halfSum17, extractLsb'_one_eq_fdiv2, toInt_sum17]

/-- The datapath's half-difference is the truncated floor half of the difference (R56). -/
theorem halfDiff17_eq (l r : Sample) : halfDiff17 l r = trunc16 (fdiv2 (sext16 l - sext16 r)) := by
  rw [halfDiff17, extractLsb'_one_eq_fdiv2, toInt_diff17]

/-- The datapath's clamp is saturation and truncation (R10). -/
theorem clamp18_eq (v : BitVec 18) : clamp18 v = trunc16 (sat16 v.toInt) := by
  have above : (32767#18).slt v = true ↔ 32767 < v.toInt := BitVec.slt_iff_toInt_lt
  have below : v.slt (-32768#18) = true ↔ v.toInt < -32768 := BitVec.slt_iff_toInt_lt
  simp only [clamp18, sat16_eq_clamp, above, below]
  split_ifs with high low
  · rw [show max (-32768) (min 32767 v.toInt) = 32767 by omega]; rfl
  · rw [show max (-32768) (min 32767 v.toInt) = -32768 by omega]; rfl
  · rw [show max (-32768) (min 32767 v.toInt) = v.toInt by omega, extractLsb'_zero_eq_trunc16]

/-! ### Decoding by `UNIT` and `MODE` -/

/-- `OP` is `UNIT` above `MODE` (R38). -/
theorem reqUnit_append_reqMode (q : Request) : reqUnit q ++ reqMode q = reqOp q :=
  BitVec.extractLsb'_append_extractLsb'_eq_extractLsb' rfl

/-- A request may be read as its `UNIT`, its `MODE` and its `DATA` (R37, R38). -/
theorem responseTo_of_unit_mode {q : Request} {unit : BitVec 4} {mode : ModeTag} (hu : reqUnit q = unit)
    (hm : reqMode q = mode) : responseTo q = responseTo (mkRequest (unit ++ mode) (reqData q)) := by
  rw [← hu, ← hm, reqUnit_append_reqMode, mkRequest_fields]

/-- The rows of IllegalRequest answer with its error, whatever `DATA` holds (R44, R93). -/
theorem responseTo_illegalRequest (op : OpCode) (d : Data) (h : rowOf op ∈ illegalRows.map OpcodeRow.row) :
    responseTo (mkRequest op d) = mkResponse 0x02#8 0 := by
  refine responseTo_of_exec _ _ ?_
  rw [decode_mkRequest]
  generalize rowOf op = row at h
  fin_cases h <;> rfl

/-- In unit 0, the tags above 3 are in the rows of InvalidMode (R43). -/
theorem rowOf_invalidMode : ∀ m : ModeTag, m ≠ 0#4 → m ≠ 1#4 → m ≠ 2#4 → m ≠ 3#4 →
    rowOf (0x0#4 ++ m) = .invalidMode04_07 ∨ rowOf (0x0#4 ++ m) = .invalidMode08_0F := by decide

/-- Outside unit 0, the rows other than those of `0x10` and `0x20` are of IllegalRequest (R44). -/
theorem rowOf_illegalRequest : ∀ (u : BitVec 4) (m : ModeTag), u ≠ 0x0#4 → ¬(u = 0x1#4 ∧ m = 0x0#4) →
    ¬(u = 0x2#4 ∧ m = 0x0#4) → rowOf (u ++ m) ∈ illegalRows.map OpcodeRow.row := by decide

/-- Settles O16: along the datapath's own branches, each of which fixes the request's row. -/
theorem datapathComputesEveryResponse : Obligations.DatapathComputesEveryResponse := by
  intro q
  simp only [datapath]
  split_ifs with unit0 sell selr mid side pack unpack
  · rw [responseTo_of_unit_mode unit0 sell]
    exact (responseTo_sell _).trans (by rw [monoWord, trunc16_sext16])
  · rw [responseTo_of_unit_mode unit0 selr]
    exact (responseTo_selr _).trans (by rw [monoWord, trunc16_sext16])
  · rw [responseTo_of_unit_mode unit0 mid, halfSum17_eq]
    exact responseTo_mid _
  · rw [responseTo_of_unit_mode unit0 side, halfDiff17_eq]
    exact responseTo_side _
  · rw [responseTo_of_unit_mode unit0 rfl]
    exact responseTo_invalidMode _ _ (rowOf_invalidMode _ sell selr mid side)
  · obtain ⟨unit, mode⟩ := pack
    rw [responseTo_of_unit_mode unit mode, halfSum17_eq, halfDiff17_eq]
    exact responseTo_pack32 _
  · obtain ⟨unit, mode⟩ := unpack
    rw [responseTo_of_unit_mode unit mode, clamp18_eq, clamp18_eq, toInt_diff18, toInt_sum18]
    exact responseTo_unpack32 _
  · rw [responseTo_of_unit_mode rfl rfl]
    exact responseTo_illegalRequest _ _ (rowOf_illegalRequest _ _ unit0 pack unpack)

end Sys2Proof.Machine
end

section
/-! PROOFS for spec/10_state.md: accept, deliver and reset (R22, R23, R105), the next state of every step, and the order
law of the responses with the coherence of a call in progress (R23, R31, R81, R87, R88). -/

namespace Sys2Proof.Machine

/-! ### Execution and the transfers at an edge -/

/-- Every instruction goes on, with one response for all states, and writes nothing else (R6, R31). -/
theorem exec_responds (i : Instr) :
    ∃ rsp, ∀ s : State, exec i s = .next { s with pending := some rsp } := by
  cases i <;> exact ⟨_, fun _ => rfl⟩

/-- Executing a request leaves its response pending and changes nothing else (R22). -/
theorem exec_decode (q : Request) (s : State) :
    exec (decode q) s = .next { s with pending := some (responseTo q) } := by
  obtain ⟨rsp, hexec⟩ := exec_responds (decode q)
  rw [hexec s, responseTo_of_exec q rsp (hexec _)]

/-- An accepted request leaves the port, is recorded and has its response pending (R22). -/
theorem accept_eq (q : Request) (s : State) :
    accept q s = .next { recordAccepted q s with pending := some (responseTo q) } :=
  exec_decode q _

theorem clockEdge_of_offered {s : State} {q : Request} (ready : Bool) (hp : s.pending = none)
    (ho : s.offered = some q) : clockEdge ready s = accept q s := by
  simp [clockEdge, hp, ho]

theorem clockEdge_of_quiet {s : State} (ready : Bool) (hp : s.pending = none) (ho : s.offered = none) :
    clockEdge ready s = .next s := by
  simp [clockEdge, hp, ho]

theorem clockEdge_true_of_pending {s : State} {rsp : Response} (hp : s.pending = some rsp) :
    clockEdge true s = .next (deliver rsp s) := by
  simp [clockEdge, hp]

theorem clockEdge_false_of_pending {s : State} {rsp : Response} (hp : s.pending = some rsp) :
    clockEdge false s = .next s := by
  simp [clockEdge, hp]

@[simp] theorem deliver_pending (rsp : Response) (s : State) : (deliver rsp s).pending = none :=
  receive_pending _ _

@[simp] theorem deliver_offered (rsp : Response) (s : State) : (deliver rsp s).offered = s.offered :=
  receive_offered _ _

@[simp] theorem deliver_accepted (rsp : Response) (s : State) : (deliver rsp s).accepted = s.accepted :=
  receive_accepted _ _

@[simp] theorem deliver_delivered (rsp : Response) (s : State) :
    (deliver rsp s).delivered = s.delivered ++ [rsp] :=
  receive_delivered _ _

/-- Outside a call, delivery only moves the response into the host's record (R23). -/
theorem deliver_of_not_running (rsp : Response) (s : State) (hn : ∀ r, s.host ≠ .running r) :
    deliver rsp s = { s with pending := none, delivered := s.delivered ++ [rsp] } :=
  receive_of_not_running _ _ hn

/-- An OK response to a call in progress ends the call exactly when it is the last one (R90). -/
theorem deliver_of_running {s : State} {r : Run} {rsp : Response} (hr : s.host = .running r)
    (ok : rspStatus rsp = statusOk) : deliver rsp s =
      if s.delivered.length + 1 = r.requests.length then
        { s with pending := none, delivered := s.delivered ++ [rsp], host := .done,
                 output := r.outputOf (s.delivered ++ [rsp]) }
      else { s with pending := none, delivered := s.delivered ++ [rsp] } := by
  simp [deliver, receive, hr, ok]

/-- Inside a call, the host takes a pending response (R88). -/
theorem serve_of_pending (r : Run) {s : State} {rsp : Response} (hp : s.pending = some rsp) :
    serve r s = (.edge true, s) := by
  simp [serve, hp]

/-! ### A step by the host's move -/

theorem step_of_reset {s t : State} (h : hostMove s = (.reset, t)) : step s = .next (resetBlock t) := by
  simp [step, systemStep, h]

theorem step_of_edge {s t : State} {ready : Bool} (h : hostMove s = (.edge ready, t)) :
    step s = clockEdge ready t := by
  simp [step, systemStep, h]

theorem step_of_start {s t : State} {c : Call} (h : hostMove s = (.start c, t)) :
    step s = .next (startCall Config.trailingPolicy c t) := by
  simp [step, systemStep, h]

/-- Settles O15: every instruction's meaning is one `respond` of words that do not depend on the state. -/
theorem responseIsAFunctionOfTheRequest : Obligations.ResponseIsAFunctionOfTheRequest :=
  fun q => exec_responds (decode q)

/-- Settles O27: the edge accepts. -/
theorem stepRunsTheDecodedRequest : Obligations.StepRunsTheDecodedRequest := by
  intro s t ready q hmove hp ho
  rw [step_of_edge hmove, clockEdge_of_offered ready hp ho]
  rfl

/-- Settles O28: the placed word is on the port at an edge at which the host waits. -/
theorem fetchedWordRunsNext : Obligations.FetchedWordRunsNext := by
  intro s w hw
  have table : decodeTableWord 40 w = some (decode (BitVec.ofNat 40 w)) := by
    rw [decodeTableWord, Nat.mod_eq_of_lt hw, if_pos hw]
  have placed : s.withFetchWord 40 w = placeRequest (BitVec.ofNat 40 w) s := by
    rw [State.withFetchWord, Nat.mod_eq_of_lt hw]
  refine ⟨_, table, ?_⟩
  rw [placed, stepRunsTheDecodedRequest _ _ _ _ (hostMove_wait (placeRequest _ s) s.agenda rfl) rfl rfl]
  rfl

/-- Settles O29: at a waiting edge, by whether a response is pending. -/
theorem acceptExactlyWhenNothingIsPending : Obligations.AcceptExactlyWhenNothingIsPending := by
  intro s q rest hagenda ho
  rw [step_of_edge (hostMove_wait s rest hagenda)]
  constructor
  · intro hp
    rw [clockEdge_of_offered (s := { s with agenda := rest }) false hp ho, accept_eq]
    rfl
  · intro rsp hp
    exact clockEdge_false_of_pending (s := { s with agenda := rest }) hp

/-- Settles O30: outside a call by what stands on the ports, inside a call by the host's own move. -/
theorem deliverExactlyWhenPending : Obligations.DeliverExactlyWhenPending := by
  intro s
  refine ⟨fun rsp rest hn hagenda hp => ?_, fun rest hn hagenda hp ho => ?_, fun r rsp hr hagenda hp => ?_⟩
  · rw [step_of_edge (hostMove_take s rest hagenda hn),
      clockEdge_true_of_pending (s := { s with agenda := rest }) hp,
      deliver_of_not_running _ { s with agenda := rest } hn]
  · rw [step_of_edge (hostMove_take s rest hagenda hn)]
    exact clockEdge_of_quiet (s := { s with agenda := rest }) true hp ho
  · have hmove : hostMove s = (.edge true, s) := (hostMove_serve s r hr hagenda).trans (serve_of_pending r hp)
    refine ⟨deliver rsp s, ?_, ?_⟩
    · rw [step_of_edge hmove, clockEdge_true_of_pending hp]
    · simp

/-- Settles O32: the host of the reset state leaves the port as it is, and the edge accepts. -/
theorem resetStateAcceptsAnyRequest : Obligations.ResetStateAcceptsAnyRequest := by
  refine ⟨rfl, fun q => ⟨{ recordAccepted q State.reset with pending := some (responseTo q) }, ?_, rfl, rfl⟩⟩
  rw [step_of_edge (hostMove_nil _ (by simp) rfl), clockEdge_of_offered false rfl rfl, accept_eq]
  rfl

/-! ### Every step goes on -/

theorem clockEdge_next (ready : Bool) (s : State) : ∃ t, clockEdge ready s = .next t := by
  obtain ⟨q, _, _, h⟩ | ⟨rsp, _, _, h⟩ | ⟨h, _, _⟩ := clockEdge_cases ready s
  · exact ⟨_, h.trans (accept_eq q s)⟩
  · exact ⟨_, h⟩
  · exact ⟨_, h⟩

/-- Settles O33: a reset and the beginning of a call go on by definition, an edge because every request does. -/
theorem everyStepGoesOn : Obligations.EveryStepGoesOn := by
  intro s
  rcases hmove : hostMove s with ⟨_ | ready | c, t⟩
  · exact ⟨_, step_of_reset hmove⟩
  · rw [step_of_edge hmove]
    exact clockEdge_next ready t
  · exact ⟨_, step_of_start hmove⟩

/-- A property that every step keeps holds after any number of steps, none of which stops the run. -/
theorem run_keeps {P : State → Prop} (keeps : ∀ s t, P s → step s = .next t → P t) (n : Nat) (s : State)
    (hs : P s) : ∃ t : State, Host.Core.run Sys2Proof.core n s = .next t ∧ P t := by
  induction n generalizing s with
  | zero => exact ⟨s, rfl, hs⟩
  | succ n ih =>
    obtain ⟨u, hstep⟩ := everyStepGoesOn s
    obtain ⟨t, hrun, ht⟩ := ih u (keeps s u hs hstep)
    have first : Sys2Proof.core.step s = .next u := hstep
    exact ⟨t, by simp only [Host.Core.run, first, hrun], ht⟩

/-! ### A converter's requests are answered OK -/

/-- The rows of the six operations answer OK, whatever `DATA` holds (R42). -/
theorem rspStatus_of_operation (op : OpCode) (d : Data) (h : rowOf op ∈ operationRows.map OpcodeRow.row) :
    rspStatus (responseTo (mkRequest op d)) = statusOk := by
  obtain ⟨rdata, answer⟩ : ∃ rdata, exec (decode (mkRequest op d)) State.reset
      = .next { State.reset with pending := some (mkResponse statusOk rdata) } := by
    rw [decode_mkRequest]
    generalize rowOf op = row at h
    fin_cases h <;> exact ⟨_, rfl⟩
  rw [responseTo_of_exec _ _ answer, rspStatus_mkResponse]

theorem rspStatus_of_mem_frameRequests {op : OpCode} (h : rowOf op ∈ operationRows.map OpcodeRow.row)
    {input : List Byte} {n : Nat} {q : Request} (hq : q ∈ frameRequests op input n) :
    rspStatus (responseTo q) = statusOk := by
  obtain ⟨i, _, rfl⟩ := List.mem_map.mp hq
  exact rspStatus_of_operation op _ h

theorem rowOf_mixerOp (mode : MixMode) : rowOf (mixerOp mode) ∈ operationRows.map OpcodeRow.row := by
  cases mode <;> decide

/-- A sequence of checks passes only if its first check passes and then the rest of them. -/
theorem exists_of_bind_eq_ok {α β : Type} {x : Except HostError α} {f : α → Except HostError β} {b : β}
    (h : x >>= f = .ok b) : ∃ a, x = .ok a ∧ f a = .ok b := by
  cases x with
  | error e => cases h
  | ok a => exact ⟨a, rfl, h⟩

/-- A plan that drives the block asks for one operation on each frame of an input (R48, R81). -/
theorem planCall_drive {p : TrailingPolicy} {c : Call} {r : Run} (h : planCall p c = .ok (.drive r)) :
    ∃ op input n, rowOf op ∈ operationRows.map OpcodeRow.row ∧ r.requests = frameRequests op input n := by
  cases c with
  | stereoToMono input tag =>
    simp only [planCall, planStereoToMono] at h
    split at h
    · cases h
    next mode _ =>
    obtain ⟨hd, _, h⟩ := exists_of_bind_eq_ok h
    split_ifs at h
    · obtain ⟨n, _, h⟩ := exists_of_bind_eq_ok h
      cases h
      exact ⟨_, input, n, rowOf_mixerOp mode, rfl⟩
    · obtain ⟨n, _, h⟩ := exists_of_bind_eq_ok h
      cases h
  | monoPairToStereo leftIn rightIn =>
    obtain ⟨l, _, h⟩ := exists_of_bind_eq_ok h
    obtain ⟨r', _, h⟩ := exists_of_bind_eq_ok h
    split_ifs at h
    split at h
    · cases h
    · obtain ⟨n, _, h⟩ := exists_of_bind_eq_ok h
      cases h
  | stereoToCoded32 input =>
    obtain ⟨hd, _, h⟩ := exists_of_bind_eq_ok h
    split_ifs at h
    obtain ⟨n, _, h⟩ := exists_of_bind_eq_ok h
    cases h
    exact ⟨_, input, n, by decide, rfl⟩
  | coded32ToStereo input =>
    obtain ⟨hd, _, h⟩ := exists_of_bind_eq_ok h
    split_ifs at h
    obtain ⟨n, _, h⟩ := exists_of_bind_eq_ok h
    cases h
    exact ⟨_, input, n, by decide, rfl⟩

/-- No request of a converter is answered by an error (R82). -/
theorem planCall_allLegal {p : TrailingPolicy} {c : Call} {r : Run} (h : planCall p c = .ok (.drive r)) :
    ∀ q ∈ r.requests, rspStatus (responseTo q) = statusOk := by
  obtain ⟨op, input, n, hop, hreq⟩ := planCall_drive h
  intro q hq
  rw [hreq] at hq
  exact rspStatus_of_mem_frameRequests hop hq

/-! ### The invariant, kept by each part of a step -/

/-- Outside a call, coherence asks only that no call failed by a response (R82). -/
theorem callCoherent_of_not_running {s : State} (hn : ∀ r, s.host ≠ .running r)
    (hf : ∀ st, s.host ≠ .failed (.response st)) : s.callCoherent :=
  ⟨fun r hr => absurd hr (hn r), hf⟩

/-- With call `r` running, the coherence of the system is that of `r`. -/
theorem callCoherent_of_running {s : State} {r : Run} (hr : s.host = .running r) (coherent : r.coherent s) :
    s.callCoherent := by
  constructor
  · intro r' hr'
    cases hr.symm.trans hr'
    exact coherent
  · intro st hst
    cases hr.symm.trans hst

namespace State.Inv

variable {s : State}

/-- The invariant does not read the agenda. -/
theorem withAgenda (inv : s.Inv) (rest : List Event) : State.Inv { s with agenda := rest } := by
  obtain ⟨order, coherent, noFail⟩ := inv
  exact ⟨order, fun r hr => { coherent r hr with }, noFail⟩

/-- Outside a call, what the host offers is free. -/
theorem offer_of_not_running (inv : s.Inv) (q : Request) (hn : ∀ r, s.host ≠ .running r) :
    State.Inv { s with offered := some q } := by
  obtain ⟨order, _, noFail⟩ := inv
  exact ⟨order, callCoherent_of_not_running hn noFail⟩

/-- Inside a call, the host offers the frame after those accepted (R81, R88). -/
theorem offer_of_running (inv : s.Inv) {r : Run} {q : Request} (hr : s.host = .running r)
    (ho : s.offered = none) (hq : r.requests[s.accepted.length]? = some q) :
    State.Inv { s with offered := some q } := by
  obtain ⟨order, coherent, _⟩ := inv
  obtain ⟨inOrder, notOver, noError, allLegal⟩ := coherent r hr
  obtain ⟨within, rfl⟩ := List.getElem?_eq_some_iff.mp hq
  have before : s.accepted <+: r.requests := by simpa [ho] using inOrder
  exact ⟨order, callCoherent_of_running hr ⟨List.concat_get_prefix before within, notOver, noError, allLegal⟩⟩

/-- Accepting a request appends it and its response to the two sides of the order law (R22, R23). -/
theorem accept {t : State} {q : Request} (inv : s.Inv) (hp : s.pending = none) (ho : s.offered = some q)
    (h : Machine.accept q s = .next t) : t.Inv := by
  obtain ⟨order, coherent, noFail⟩ := inv
  obtain rfl : { recordAccepted q s with pending := some (responseTo q) } = t := by
    simpa [accept_eq] using h
  refine ⟨?_, fun r hr => ?_, noFail⟩
  · simpa [orderly, hp] using order
  · obtain ⟨inOrder, notOver, noError, allLegal⟩ := coherent r hr
    exact ⟨by simpa [ho] using inOrder, notOver, noError, allLegal⟩

/-- Inside a call the pending response is the response to one of the call's requests, and so is OK (R82). -/
theorem pending_ok (inv : s.Inv) {r : Run} {rsp : Response} (hr : s.host = .running r)
    (hp : s.pending = some rsp) : rspStatus rsp = statusOk := by
  obtain ⟨order, coherent, _⟩ := inv
  obtain ⟨inOrder, _, _, allLegal⟩ := coherent r hr
  rw [orderly, hp] at order
  have answered : rsp ∈ s.accepted.map responseTo := by simp [order]
  obtain ⟨q, hq, rfl⟩ := List.mem_map.mp answered
  exact allLegal q (inOrder.subset (List.mem_append_left _ hq))

/-- Delivery moves the pending response to the end of those delivered; a call goes on only if it was not the last
(R23, R90). -/
theorem deliver {rsp : Response} (inv : s.Inv) (hp : s.pending = some rsp) : (Machine.deliver rsp s).Inv := by
  have order : (Machine.deliver rsp s).orderly := by
    obtain ⟨order, _⟩ := inv
    simpa [orderly, hp] using order
  refine ⟨order, ?_⟩
  by_cases hr : ∃ r, s.host = .running r
  · obtain ⟨r, hr⟩ := hr
    have ok := inv.pending_ok hr hp
    obtain ⟨_, coherent, _⟩ := inv
    obtain ⟨inOrder, notOver, noError, allLegal⟩ := coherent r hr
    rw [deliver_of_running hr ok]
    split_ifs with last
    · exact callCoherent_of_not_running (by simp) (by simp)
    · refine callCoherent_of_running hr ⟨inOrder, ?_, ?_, allLegal⟩
      · simp only [List.length_append, List.length_singleton]
        omega
      · simpa [or_imp, forall_and, ok] using noError
  · have hn : ∀ r, s.host ≠ .running r := fun r h => hr ⟨r, h⟩
    obtain ⟨_, _, noFail⟩ := inv
    rw [deliver_of_not_running rsp s hn]
    exact callCoherent_of_not_running hn noFail

/-- An edge accepts, delivers or transfers nothing. -/
theorem clockEdge {t : State} {ready : Bool} (inv : s.Inv) (h : Machine.clockEdge ready s = .next t) : t.Inv := by
  obtain ⟨q, hp, ho, hedge⟩ | ⟨rsp, hp, _, hedge⟩ | ⟨hedge, _, _⟩ := clockEdge_cases ready s
  · exact inv.accept hp ho (hedge.symm.trans h)
  · cases hedge.symm.trans h
    exact inv.deliver hp
  · cases hedge.symm.trans h
    exact inv

/-- A reset empties both sides of the order law, and a call in progress begins again (R88, R105). -/
theorem resetBlock (inv : s.Inv) : (Machine.resetBlock s).Inv := by
  obtain ⟨_, coherent, noFail⟩ := inv
  refine ⟨rfl, fun r hr => ?_, noFail⟩
  obtain ⟨_, notOver, _, allLegal⟩ := coherent r hr
  exact ⟨List.nil_prefix, Nat.zero_lt_of_lt notOver, by simp, allLegal⟩

/-- A call that begins has asked for nothing, and has a frame to ask for if it goes on (R87, R90). It begins on quiet
ports, so that the order law holds of its empty records. -/
theorem startCall (p : TrailingPolicy) (c : Call) (hp : s.pending = none) (ho : s.offered = none) :
    (Machine.startCall p c s).Inv := by
  obtain ⟨e, _, h⟩ | ⟨out, _, h⟩ | ⟨r, _, _, h⟩ | ⟨r, plan, nonempty, h⟩ := startCall_cases p c s <;> rw [h] <;>
    refine ⟨by simp [orderly, hp], ?_⟩
  · exact callCoherent_of_not_running (by simp) (by simp)
  · exact callCoherent_of_not_running (by simp) (by simp)
  · exact callCoherent_of_not_running (by simp) (by simp)
  · exact callCoherent_of_running rfl
      ⟨by simp [ho], List.length_pos_iff.mpr nonempty, by simp, planCall_allLegal plan⟩

end State.Inv

/-- Settles O34: along the host's moves, each followed by the part of the step it leads to. -/
theorem stepKeepsTheInvariant : Obligations.StepKeepsTheInvariant := by
  intro s t inv hstep
  obtain ⟨rest, _, hmove⟩ | ⟨c, rest, _, hp, ho, _, hmove⟩ | ⟨ready, rest, hmove⟩ | ⟨q, rest, _, hn, hmove⟩ |
    ⟨r, q, rest, hr, _, ho, hq, hmove⟩ := hostMove_cases s
  · cases (step_of_reset hmove).symm.trans hstep
    exact (inv.withAgenda rest).resetBlock
  · cases (step_of_start hmove).symm.trans hstep
    exact State.Inv.startCall _ c hp ho
  · rw [step_of_edge hmove] at hstep
    exact (inv.withAgenda rest).clockEdge hstep
  · rw [step_of_edge hmove] at hstep
    exact ((inv.offer_of_not_running q hn).withAgenda rest).clockEdge hstep
  · rw [step_of_edge hmove] at hstep
    exact ((inv.offer_of_running hr ho hq).withAgenda rest).clockEdge hstep

/-- Settles O35: both records are empty, nothing is pending and no call runs. -/
theorem resetHasTheInvariant : Obligations.ResetHasTheInvariant :=
  ⟨rfl, callCoherent_of_not_running (by simp) (by simp)⟩

/-- Settles O36: the invariant holds at reset with any agenda and every step keeps it. -/
theorem responsesComeInRequestOrder : Obligations.ResponsesComeInRequestOrder := by
  intro agenda n
  have start : State.Inv { State.reset with agenda := agenda } := resetHasTheInvariant.withAgenda agenda
  obtain ⟨t, hrun, order, _⟩ := run_keeps stepKeepsTheInvariant n _ start
  exact ⟨t, hrun, order⟩

end Sys2Proof.Machine
end

section
/-! PROOFS for spec/20_memory.md: the frame as a word of four bytes (R25, R26), and where a response's bytes stand in the
output payload (R27, R64, R73, R81, R89). -/

namespace Sys2Proof.Machine

/-! ### The frame's bytes and its word -/

/-- Concatenation is a sum: the right word gives the low bits. -/
theorem toNat_append_eq_add {m n : Nat} (a : BitVec m) (b : BitVec n) :
    (a ++ b).toNat = 2 ^ n * a.toNat + b.toNat := by
  rw [BitVec.toNat_append, ← Nat.shiftLeft_add_eq_or_of_lt b.isLt, Nat.shiftLeft_eq, Nat.mul_comm]

/-- A word wide enough for the bytes holds the integer they make (R25). -/
theorem toNat_ofNat_leNat (bs : List Byte) : (BitVec.ofNat (8 * bs.length) (leNat bs)).toNat = leNat bs := by
  have fits := leNat_lt bs
  rw [show 256 = 2 ^ 8 by rfl, ← Nat.pow_mul] at fits
  rw [BitVec.toNat_ofNat, Nat.mod_eq_of_lt fits]

/-- The integer four bytes make, by their weights (R25). -/
theorem leNat_four (b0 b1 b2 b3 : Byte) :
    leNat [b0, b1, b2, b3] = b0.toNat + 256 * b1.toNat + 65536 * b2.toNat + 16777216 * b3.toNat := by
  simp only [leNat]; omega

/-- The word of a frame's four bytes is their concatenation, the last in stream order most significant (R25, R26). -/
theorem ofNat_leNat_four (b0 b1 b2 b3 : Byte) :
    (BitVec.ofNat 32 (leNat [b0, b1, b2, b3]) : Data) = b3 ++ (b2 ++ (b1 ++ b0)) := by
  apply BitVec.eq_of_toNat_eq
  have word : (BitVec.ofNat 32 (leNat [b0, b1, b2, b3])).toNat = leNat [b0, b1, b2, b3] :=
    toNat_ofNat_leNat [b0, b1, b2, b3]
  rw [word, leNat_four, toNat_append_eq_add, toNat_append_eq_add, toNat_append_eq_add]
  omega

/-- Settles O49: the word holds the integer the bytes make, so that writing it back gives the bytes. -/
theorem frameWordIsLittleEndian : Obligations.FrameWordIsLittleEndian := by
  intro b0 b1 b2 b3
  refine ⟨leNat_four b0 b1 b2 b3, ofNat_leNat_four b0 b1 b2 b3, ?_⟩
  exact (congrArg (leBytes 4) (toNat_ofNat_leNat [b0, b1, b2, b3])).trans (leBytes_leNat [b0, b1, b2, b3])

/-! ### Where the bytes of one piece stand in a stream of equal pieces -/

/-- Pieces of one size make a stream of their number times that size. -/
theorem length_flatMap_of_length_eq {α : Type} {f : α → List Byte} {g : Nat} (size : ∀ a, (f a).length = g)
    (xs : List α) : (xs.flatMap f).length = xs.length * g := by
  simp [List.length_flatMap, size]

/-- In a stream of pieces of `g` bytes, piece `i` stands at offset `i * g` (R27). -/
theorem streamBytes_flatMap {α : Type} {f : α → List Byte} {g : Nat} (size : ∀ a, (f a).length = g)
    (xs : List α) (i : Nat) (h : i < xs.length) : streamBytes (xs.flatMap f) (i * g) g = f xs[i] := by
  have split : xs.flatMap f = (xs.take i).flatMap f ++ (f xs[i] ++ (xs.drop (i + 1)).flatMap f) := by
    rw [← List.flatMap_cons, ← List.drop_eq_getElem_cons h, ← List.flatMap_append, List.take_append_drop]
  have front : ((xs.take i).flatMap f).length = i * g := by
    rw [length_flatMap_of_length_eq size, List.length_take_of_le h.le]
  rw [split, streamBytes_split _ _ _ _ _ front (size _)]

/-- Settles O50: the payload is a stream of pieces of `g` bytes, one for each response. -/
theorem responseBytesStandAtTheirFrame : Obligations.ResponseBytesStandAtTheirFrame :=
  fun _ rs i h => streamBytes_flatMap (fun _ => leBytes_length _ _) rs i h

end Sys2Proof.Machine
end

section
/-! PROOFS for spec/30_encoding.md: the encoder and the decoder are inverse to each other (R37, R42 to R45), the error
rows and their responses (R43, R44, R54), the requests of a converter's plan (R48, R81), and the assembler's lines and
their text (R46, R47). -/

namespace Sys2Proof.Machine

/-! ### Decoder and encoder -/

/-- A row of the table that selects a request is the row its `OP` names (R45). -/
theorem rowOf_of_selects {r : OpcodeRow} {q : Request} (mem : r ∈ opcodeRows) (sel : r.selects q = true) :
    rowOf (reqOp q) = r.row := by
  have listed : r.row ∈ [rowOf (reqOp q)] := by
    rw [← rowOf_unique]
    exact List.mem_map_of_mem (List.mem_filter.mpr ⟨mem, selects_of_op r mem q ▸ sel⟩)
  exact (List.mem_singleton.mp listed).symm

/-- The word of every well-formed instruction is selected by the instruction's own row (R42 to R44). -/
theorem encodesInItsRow : ∀ i : Instr, Laws.EncodesInItsRow.Statement i
  | .sell left right => Laws.EncodesInItsRow.sell left right
  | .selr left right => Laws.EncodesInItsRow.selr left right
  | .mid left right => Laws.EncodesInItsRow.mid left right
  | .side left right => Laws.EncodesInItsRow.side left right
  | .pack32 left right => Laws.EncodesInItsRow.pack32 left right
  | .unpack32 m s => Laws.EncodesInItsRow.unpack32 m s
  | .invalidMode04_07 op data => Laws.EncodesInItsRow.invalidMode04_07 op data
  | .invalidMode08_0F op data => Laws.EncodesInItsRow.invalidMode08_0F op data
  | .illegal11_11 data => Laws.EncodesInItsRow.illegal11_11 data
  | .illegal12_13 op data => Laws.EncodesInItsRow.illegal12_13 op data
  | .illegal14_17 op data => Laws.EncodesInItsRow.illegal14_17 op data
  | .illegal18_1F op data => Laws.EncodesInItsRow.illegal18_1F op data
  | .illegal21_21 data => Laws.EncodesInItsRow.illegal21_21 data
  | .illegal22_23 op data => Laws.EncodesInItsRow.illegal22_23 op data
  | .illegal24_27 op data => Laws.EncodesInItsRow.illegal24_27 op data
  | .illegal28_2F op data => Laws.EncodesInItsRow.illegal28_2F op data
  | .illegal30_3F op data => Laws.EncodesInItsRow.illegal30_3F op data
  | .illegal40_7F op data => Laws.EncodesInItsRow.illegal40_7F op data
  | .illegal80_FF op data => Laws.EncodesInItsRow.illegal80_FF op data

/-- The `OP` of a well-formed instruction names the instruction's own row (R42 to R45). -/
theorem rowOf_op {i : Instr} (hwf : i.wf = true) : rowOf i.op = i.row := by
  obtain ⟨r, mem, hrow, sel⟩ := encodesInItsRow i hwf
  rw [encode_eq] at sel
  rw [← hrow, ← rowOf_of_selects mem sel, reqOp_mkRequest]

/-- An instruction is rebuilt from its row, its `OP` and its `DATA`: the two samples of an operation are the halves of
the word they were joined to, and every other operand is `OP` or `DATA` itself (R37, R39, R40). -/
theorem instrOf_row_op_data (i : Instr) : instrOf i.row i.op i.data = i := by
  cases i <;> simp [instrOf, Instr.row, Instr.op, Instr.data]

/-- Settles O1: the decoder takes `OP` and `DATA` from the word, and `OP` names the row. -/
theorem decodeOfEncodeIsIdentity : Obligations.DecodeOfEncodeIsIdentity := by
  intro i hwf
  rw [encode_eq, decode_mkRequest, rowOf_op hwf, instrOf_row_op_data]

/-- Settles O2: the decoded instruction is well formed and keeps `OP` and `DATA`, which are the whole word. -/
theorem encodeOfDecodeIsIdentity : Obligations.EncodeOfDecodeIsIdentity := by
  intro q
  obtain ⟨hop, hwf⟩ := instrOf_rowOf (reqOp q) (reqData q)
  refine ⟨hwf, ?_⟩
  rw [encode_eq, decode, hop, instrOf_data, mkRequest_fields]

/-- Settles O4: each word is evaluated. -/
theorem specWordsDecodeAsListed : Obligations.SpecWordsDecodeAsListed := by
  unfold Obligations.SpecWordsDecodeAsListed
  decide

/-! ### The error rows -/

theorem raise_invalidMode (s : State) :
    raise .invalidMode s = .next { s with pending := some 0x0100000000#40 } := rfl

theorem raise_illegalRequest (s : State) :
    raise .illegalRequest s = .next { s with pending := some 0x0200000000#40 } := rfl

/-- Settles O11: each of the two rows is `raise InvalidMode` (R54). -/
theorem invalidModeRowsAnswerInvalidMode : Obligations.InvalidModeRowsAnswerInvalidMode :=
  fun _ _ s => ⟨raise_invalidMode s, raise_invalidMode s⟩

/-- Settles O12: each of the eleven rows is `raise IllegalRequest` (R44). -/
theorem illegalRowsAnswerIllegalRequest : Obligations.IllegalRowsAnswerIllegalRequest := by
  intro op data s
  have row := raise_illegalRequest s
  exact ⟨row, row, row, row, row, row, row, row, row, row, row⟩

/-- Settles O13: a mode above 3 is none of the four tags, so the request is in a row of InvalidMode. -/
theorem tagsOutsideTheFourAnswerInvalidMode : Obligations.TagsOutsideTheFourAnswerInvalidMode := by
  intro q s unit0 outside
  have other (tag : ModeTag) (four : tag.toNat < 4) : reqMode q ≠ tag := by rintro rfl; omega
  have row := rowOf_invalidMode (reqMode q) (other _ (by decide)) (other _ (by decide)) (other _ (by decide))
    (other _ (by decide))
  rw [exec_decode, responseTo_of_unit_mode unit0 rfl, responseTo_invalidMode _ _ row]
  rfl

/-- Settles O14: such an `OP` is outside unit 0 and neither `0x10` nor `0x20`, so the request is in a row of
IllegalRequest. -/
theorem unassignedOpsAnswerIllegalRequest : Obligations.UnassignedOpsAnswerIllegalRequest := by
  intro q s unassigned
  have row : rowOf (reqUnit q ++ reqMode q) ∈ illegalRows.map OpcodeRow.row := by
    obtain ⟨unit | unit, mode⟩ | unit := unassigned
    · exact rowOf_illegalRequest _ _ (by simp [unit]) (by simp [mode]) (by simp [unit])
    · exact rowOf_illegalRequest _ _ (by simp [unit]) (by simp [unit]) (by simp [mode])
    · have other (u : BitVec 4) (low : u.toNat < 3) : reqUnit q ≠ u := by rintro rfl; omega
      exact rowOf_illegalRequest _ _ (other _ (by decide)) (fun h => other _ (by decide) h.1)
        (fun h => other _ (by decide) h.1)
  rw [exec_decode, responseTo_of_unit_mode rfl rfl, responseTo_illegalRequest _ _ row]
  rfl

/-! ### The status of a response -/

/-- Every row is of an operation, of InvalidMode or of IllegalRequest (R45). -/
theorem row_mem_families (row : OpRow) : row ∈ operationRows.map OpcodeRow.row ∨
    row ∈ invalidModeRows.map OpcodeRow.row ∨ row ∈ illegalRows.map OpcodeRow.row := by
  cases row <;> decide

/-- An operation answers OK on every `DATA`; any other `OP` has one error response for all of them (R42 to R45). -/
theorem responseTo_families (op : OpCode) :
    (rowOf op ∈ operationRows.map OpcodeRow.row ∧ ∀ d, rspStatus (responseTo (mkRequest op d)) = 0x00#8) ∨
    (rowOf op ∉ operationRows.map OpcodeRow.row ∧
      ∃ st ≠ 0x00#8, ∀ d, responseTo (mkRequest op d) = mkResponse st 0) := by
  by_cases operation : rowOf op ∈ operationRows.map OpcodeRow.row
  · exact .inl ⟨operation, fun d => rspStatus_of_operation op d operation⟩
  · refine .inr ⟨operation, ?_⟩
    obtain invalid | illegal := (row_mem_families (rowOf op)).resolve_left operation
    · have row : rowOf op = .invalidMode04_07 ∨ rowOf op = .invalidMode08_0F := by
        simpa [invalidModeRows] using invalid
      exact ⟨0x01#8, by decide, fun d => responseTo_invalidMode op d row⟩
    · exact ⟨0x02#8, by decide, fun d => responseTo_illegalRequest op d illegal⟩

/-- `OP` alone decides the status (R45). -/
theorem rspStatus_responseTo_congr (op : OpCode) (d d' : Data) :
    rspStatus (responseTo (mkRequest op d)) = rspStatus (responseTo (mkRequest op d')) := by
  obtain ⟨_, ok⟩ | ⟨_, _, _, error⟩ := responseTo_families op
  · rw [ok, ok]
  · rw [error, error]

/-- How many values of `OP` are answered with the status `st`, `DATA` being 0. -/
def opsAnswering (st : Status) : Nat :=
  (List.range 256).countP fun n => rspStatus (responseTo (mkRequest (BitVec.ofNat 8 n) 0)) == st

set_option maxRecDepth 100000 in
theorem opsAnswering_values :
    opsAnswering 0x00#8 = 6 ∧ opsAnswering 0x01#8 = 12 ∧ opsAnswering 0x02#8 = 238 := by decide

/-- Settles O3: a row's mask has no bit of `DATA`; the numbers are counted at `DATA = 0`. -/
theorem decodingIsTotalByOpAlone : Obligations.DecodingIsTotalByOpAlone := by
  refine ⟨fun q => ?_, fun op d d' => ⟨rspStatus_responseTo_congr op d d', fun isError => ?_⟩, fun d => ?_⟩
  · rw [decode, instrOf_row, ← rowOf_unique, List.filter_congr fun r mem => selects_of_op r mem q]
  · obtain ⟨_, ok⟩ | ⟨_, _, _, error⟩ := responseTo_families op
    · exact absurd (ok d) isError
    · rw [error, error]
  · simp only [rspStatus_responseTo_congr _ d 0]
    exact opsAnswering_values

/-! ### The requests of a plan -/

/-- Settles O40: a plan that drives the block asks for one of the six operations on each frame. -/
theorem converterRequestsAreNeverErrors : Obligations.ConverterRequestsAreNeverErrors :=
  fun _ _ _ planned => planCall_allLegal planned

/-- A payload of whole frames has that number of frames under either policy (R91). -/
theorem frameCount_of_whole (p : TrailingPolicy) {size frameBytes : Nat} (whole : size % frameBytes = 0) :
    frameCount p size frameBytes = .ok (size / frameBytes) := if_pos whole

section WholeFrames

variable {p : TrailingPolicy} {input : List Byte} {h : Header} (opened : openInput input = .ok h)
  (whole : h.dataSize % 4 = 0)

include opened whole

/-- `stereo_to_mono` at 16 bits, with a mode that the tag names (R82). -/
theorem planCall_stereoToMono {tag : ModeTag} {mode : MixMode} (named : modeOfTag tag = some mode)
    (stereo : h.channelCount = 2) (depth : h.bitsPerSample = 16) :
    planCall p (.stereoToMono input tag)
      = .ok (.drive ⟨frameRequests (mixerOp mode) input (h.dataSize / 4), 2, 1, h.sampleRate, 16⟩) := by
  simp [planCall, planStereoToMono, named, opened, bind, Except.bind, stereo, monoDepthRefused, depth,
    frameCount_of_whole p whole]

/-- `stereo_to_coded32` (R84). -/
theorem planCall_stereoToCoded32 (stereo : h.channelCount = 2) (depth : h.bitsPerSample = 16) :
    planCall p (.stereoToCoded32 input)
      = .ok (.drive ⟨frameRequests 0x10#8 input (h.dataSize / 4), 4, 1, h.sampleRate, 32⟩) := by
  simp [planCall, planStereoToCoded32, opened, bind, Except.bind, stereo, depth, frameCount_of_whole p whole]

/-- `coded32_to_stereo` (R85). -/
theorem planCall_coded32ToStereo (mono : h.channelCount = 1) (depth : h.bitsPerSample = 32) :
    planCall p (.coded32ToStereo input)
      = .ok (.drive ⟨frameRequests 0x20#8 input (h.dataSize / 4), 4, 2, h.sampleRate, 16⟩) := by
  simp [planCall, planCoded32ToStereo, opened, bind, Except.bind, mono, depth, frameCount_of_whole p whole]

end WholeFrames

/-- Settles O44: the requests of each plan are `frameRequests`, whose frame `i` is the word at `44 + 4i`. -/
theorem planHasOneRequestPerFrame : Obligations.PlanHasOneRequestPerFrame := by
  intro p input h opened whole requests
  refine ⟨fun stereo depth => ?_, fun mono depth => planCall_coded32ToStereo opened whole mono depth⟩
  have mixed (tag : ModeTag) (mode : MixMode) (named : modeOfTag tag = some mode) :=
    planCall_stereoToMono (p := p) opened whole named stereo depth
  exact ⟨mixed 0x0#4 .leftOnly rfl, mixed 0x1#4 .rightOnly rfl, mixed 0x2#4 .mid rfl, mixed 0x3#4 .side rfl,
    planCall_stereoToCoded32 opened whole stereo depth⟩

/-! ### Assembler lines -/

theorem inSampleRange_iff (n : Int) : inSampleRange n = true ↔ -32768 ≤ n ∧ n ≤ 32767 := by
  simp [inSampleRange]

@[simp] theorem inSampleRange_sext16 (t : Sample) : inSampleRange (sext16 t) = true :=
  (inSampleRange_iff _).mpr (sext16_range t)

/-- Settles O53: in range, truncation keeps both samples (R8), and each is the half of `DATA` it was put in. -/
theorem assemblerTakesSampleRangeOnly : Obligations.AssemblerTakesSampleRangeOnly := by
  intro op left right
  rw [← inSampleRange_iff, ← inSampleRange_iff]
  by_cases range : inSampleRange left = true ∧ inSampleRange right = true
  · obtain ⟨hl, hr⟩ := range
    have word : (AsmLine.pair op left right).request = some (mkRequest op.code (trunc16 right ++ trunc16 left)) := by
      simp [AsmLine.request, hl, hr]
    refine ⟨by simp [word, hl, hr], fun q hq => ?_⟩
    obtain rfl := Option.some.inj (word.symm.trans hq)
    refine ⟨reqOp_mkRequest _ _, ?_, ?_⟩
    · rw [reqData_mkRequest, lowHalf_append]
      exact sext16_trunc16 left ((inSampleRange_iff _).mp hl)
    · rw [reqData_mkRequest, highHalf_append]
      exact sext16_trunc16 right ((inSampleRange_iff _).mp hr)
  · have noWord : (AsmLine.pair op left right).request = none := by simp [AsmLine.request, range]
    exact ⟨by simp [noWord, range], fun q hq => by simp [noWord] at hq⟩

/-! ### The text of a line -/

theorem no_semicolon_of_plain {cs : List Char} (h : cs.all plain = true) : ∀ c ∈ cs, c ≠ ';' := by
  rintro c mem rfl
  exact absurd (List.all_eq_true.mp h _ mem) (by decide)

theorem filter_space_of_plain {cs : List Char} (h : cs.all plain = true) :
    (cs.filter fun c => c ≠ ' ') = cs := by
  rw [List.filter_eq_self]
  rintro c mem
  have := List.all_eq_true.mp h c mem
  simp_all [plain]

/-- A line with one operand is read as its mnemonic and that operand (R46). -/
theorem readLine_one {w a spaces comment : List Char} (hw : w.all plain = true) (hne : w ≠ [])
    (ha : a.all plain = true) (hs : ∀ c ∈ spaces, c = ' ') (hc : comment = [] ∨ comment.head? = some ';') :
    readLine (w ++ ' ' :: a ++ spaces ++ comment) = readOperands w [a] := by
  rw [readLine_pieces w a spaces comment hw hne (no_semicolon_of_plain ha) hs (by simpa using hc),
    filter_space_of_plain ha, splitCommas_plain a ha]

/-- A line with two operands is read as its mnemonic and those operands (R46). -/
theorem readLine_two {w a b spaces comment : List Char} (hw : w.all plain = true) (hne : w ≠ [])
    (ha : a.all plain = true) (hb : b.all plain = true) (hs : ∀ c ∈ spaces, c = ' ')
    (hc : comment = [] ∨ comment.head? = some ';') :
    readLine (w ++ ' ' :: (a ++ ',' :: ' ' :: b) ++ spaces ++ comment) = readOperands w [a, b] := by
  have pieces : (a ++ ',' :: ' ' :: b).filter (fun c => decide (c ≠ ' ')) = a ++ ',' :: b := by
    rw [List.filter_append, filter_space_of_plain ha]
    simpa using filter_space_of_plain hb
  have no_semicolon : ∀ c ∈ a ++ ',' :: ' ' :: b, c ≠ ';' := by
    simpa [or_imp, forall_and] using ⟨no_semicolon_of_plain ha, no_semicolon_of_plain hb⟩
  rw [readLine_pieces w _ spaces comment hw hne no_semicolon hs (by simpa using hc), pieces,
    splitCommas_pair a b ha hb]

theorem pairText_plain (op : PairOp) : op.text.all plain = true := by cases op <;> decide

theorem pairText_ne_nil (op : PairOp) : op.text ≠ [] := by cases op <;> decide

@[simp] theorem pairOpOf_text (op : PairOp) : pairOpOf op.text = some op := by cases op <;> decide

theorem readOperands_pair (op : PairOp) (left right : Int) :
    readOperands op.text [decimal left, decimal right] = some (.pair op left right) := by
  simp [readOperands]

/-- The mnemonic of both forms of UNPACK32 (R46). -/
def unpackMnemonic : List Char := ['U', 'N', 'P', 'A', 'C', 'K', '3', '2']

/-- The mnemonic of a raw request (R47). -/
def rawMnemonic : List Char := ['.', 'r', 'e', 'q']

theorem text_unpackWord (coded : Data) :
    (AsmLine.unpackWord coded).text = unpackMnemonic ++ ' ' :: ('0' :: 'x' :: hexDigits 8 coded.toNat) := rfl

theorem text_unpackHalves (mid side : Sample) : (AsmLine.unpackHalves mid side).text = unpackMnemonic ++
    ' ' :: (('m' :: 'i' :: 'd' :: '=' :: '0' :: 'x' :: hexDigits 4 mid.toNat) ++
      ',' :: ' ' :: ('s' :: 'i' :: 'd' :: 'e' :: '=' :: '0' :: 'x' :: hexDigits 4 side.toNat)) := by
  simp [AsmLine.text, unpackMnemonic]

theorem text_raw (op : OpCode) (data : Data) : (AsmLine.raw op data).text = rawMnemonic ++
    ' ' :: ('0' :: 'x' :: (hexDigits 2 op.toNat ++ '_' :: hexDigits 8 data.toNat)) := by
  simp [AsmLine.text, rawMnemonic]

theorem text_pair (op : PairOp) (left right : Int) : (AsmLine.pair op left right).text = op.text ++
    ' ' :: (decimal left ++ ',' :: ' ' :: decimal right) := by
  simp [AsmLine.text]

theorem pairOpOf_unpackMnemonic : pairOpOf unpackMnemonic = none := by decide

theorem pairOpOf_rawMnemonic : pairOpOf rawMnemonic = none := by decide

/-- The hexadecimal digits of a word of `4n` bits read back as its value. -/
theorem readHex_toNat (n : Nat) (v : BitVec (4 * n)) :
    readHex n ('0' :: 'x' :: hexDigits n v.toNat) = some v.toNat :=
  readHex_hexDigits n v.toNat (by simpa [Nat.pow_mul] using v.isLt)

theorem readOperands_unpackWord (coded : Data) :
    readOperands unpackMnemonic ['0' :: 'x' :: hexDigits 8 coded.toNat] = some (.unpackWord coded) := by
  have hex := readHex_toNat 8 coded
  simp only [readOperands, pairOpOf_unpackMnemonic]
  simp [unpackMnemonic, hex]

theorem readOperands_unpackHalves (mid side : Sample) :
    readOperands unpackMnemonic ['m' :: 'i' :: 'd' :: '=' :: '0' :: 'x' :: hexDigits 4 mid.toNat,
      's' :: 'i' :: 'd' :: 'e' :: '=' :: '0' :: 'x' :: hexDigits 4 side.toNat] = some (.unpackHalves mid side) := by
  have hexMid := readHex_toNat 4 mid
  have hexSide := readHex_toNat 4 side
  simp only [readOperands, pairOpOf_unpackMnemonic]
  simp [unpackMnemonic, hexMid, hexSide]

theorem readOperands_raw (op : OpCode) (data : Data) :
    readOperands rawMnemonic ['0' :: 'x' :: (hexDigits 2 op.toNat ++ '_' :: hexDigits 8 data.toNat)]
      = some (.raw op data) := by
  have hexOp := readHex_toNat 2 op
  have hexData := readHex_toNat 8 data
  have afterBar : (hexDigits 2 op.toNat ++ '_' :: hexDigits 8 data.toNat).drop 3 = hexDigits 8 data.toNat := by
    simp [List.drop_append]
  simp only [readOperands, pairOpOf_rawMnemonic]
  simp [rawMnemonic, hexOp, afterBar, hexData]

/-- Settles O56: the line is cut into its mnemonic and operands, each of which reads back. -/
theorem lineTextReadsBack : Obligations.LineTextReadsBack := by
  intro line spaces comment hs hc
  cases line with
  | pair op left right =>
    rw [text_pair, readLine_two (pairText_plain op) (pairText_ne_nil op) (decimal_plain left) (decimal_plain right)
      hs hc, readOperands_pair]
  | unpackWord coded =>
    rw [text_unpackWord, readLine_one (by decide) (by decide) (by simp [hexDigits_plain, plain]) hs hc,
      readOperands_unpackWord]
  | unpackHalves mid side =>
    rw [text_unpackHalves, readLine_two (by decide) (by decide) (by simp [hexDigits_plain, plain])
      (by simp [hexDigits_plain, plain]) hs hc, readOperands_unpackHalves]
  | raw op data =>
    rw [text_raw, readLine_one (by decide) (by decide) (by simp [hexDigits_plain, plain]) hs hc, readOperands_raw]

/-! ### The disassembler -/

/-- What the disassembler prints: a pair line, a coded word, or a raw line where the request is no operation (R47). -/
theorem disassemble_cases (q : Request) :
    (∃ op left right, q = mkRequest (PairOp.code op) (right ++ left) ∧
      disassemble q = .pair op (sext16 left) (sext16 right)) ∨
    (∃ mid side : Sample, q = mkRequest 0x20#8 (mid ++ side) ∧ disassemble q = .unpackWord (mid ++ side)) ∨
    (rowOf (reqOp q) ∉ operationRows.map OpcodeRow.row ∧ disassemble q = .raw (reqOp q) (reqData q)) := by
  have encoded : encode (decode q) = q := (encodeOfDecodeIsIdentity q).2
  have row : (decode q).row = rowOf (reqOp q) := instrOf_row _ _ _
  rw [disassemble, ← row]
  generalize decode q = i at encoded
  cases i with
  | sell left right => exact .inl ⟨.sell, left, right, encoded.symm, rfl⟩
  | selr left right => exact .inl ⟨.selr, left, right, encoded.symm, rfl⟩
  | mid left right => exact .inl ⟨.mid, left, right, encoded.symm, rfl⟩
  | side left right => exact .inl ⟨.side, left, right, encoded.symm, rfl⟩
  | pack32 left right => exact .inl ⟨.pack32, left, right, encoded.symm, rfl⟩
  | unpack32 mid side => exact .inr (.inl ⟨mid, side, encoded.symm, rfl⟩)
  | _ => exact .inr (.inr ⟨by simp [operationRows, Instr.row], rfl⟩)

/-- A request is answered OK exactly when it is one of the six operations (R42 to R45). -/
theorem rspStatus_ok_iff (q : Request) :
    rspStatus (responseTo q) = 0x00#8 ↔ rowOf (reqOp q) ∈ operationRows.map OpcodeRow.row := by
  rw [← mkRequest_fields q, reqOp_mkRequest]
  obtain ⟨operation, ok⟩ | ⟨other, st, error, answer⟩ := responseTo_families (reqOp q)
  · exact iff_of_true (ok _) operation
  · rw [answer, rspStatus_mkResponse]
    exact iff_of_false error other

theorem rowOf_pairCode (op : PairOp) : rowOf op.code ∈ operationRows.map OpcodeRow.row := by cases op <;> decide

theorem request_disassemble (q : Request) : (disassemble q).request = some q := by
  obtain ⟨op, left, right, rfl, line⟩ | ⟨mid, side, rfl, line⟩ | ⟨_, line⟩ := disassemble_cases q <;>
    simp [line, AsmLine.request]

/-- A `.req` line is printed exactly for what is none of the six operations (R47). -/
theorem disassemble_raw_iff (q : Request) :
    (∃ op d, disassemble q = .raw op d) ↔ rowOf (reqOp q) ∉ operationRows.map OpcodeRow.row := by
  obtain ⟨op, left, right, rfl, line⟩ | ⟨mid, side, rfl, line⟩ | ⟨other, line⟩ := disassemble_cases q
  · exact iff_of_false (by simp [line]) (by rw [reqOp_mkRequest]; exact not_not.mpr (rowOf_pairCode op))
  · exact iff_of_false (by simp [line]) (by rw [reqOp_mkRequest]; decide)
  · exact iff_of_true ⟨_, _, line⟩ other

/-- Settles O52: the printed line stands for the request, and its text reads back as the line. -/
theorem disassembledLineAssemblesBack : Obligations.DisassembledLineAssemblesBack := by
  intro q
  have text : readLine (disassemble q).text = some (disassemble q) := by
    simpa using lineTextReadsBack (disassemble q) [] [] (by simp) (.inl rfl)
  refine ⟨request_disassemble q, ?_, (disassemble_raw_iff q).trans (rspStatus_ok_iff q).not.symm⟩
  rw [assemble, text, Option.bind_some, request_disassemble]

end Sys2Proof.Machine
end

section
/-! PROOFS for spec/40_channel_mixer.md: the four operations of the mixer and the range of their results (R49 to R58),
the calls that make no request (R59, R83), and splitting a stereo file and merging its halves (R58, R82, R83, R86). -/

namespace Sys2Proof.Machine

/-! ### The four operations, by mode -/

/-- The instruction of a mode (R42, R48). -/
def mixInstr (mode : MixMode) (left right : Sample) : Instr :=
  match mode with
  | .leftOnly => .sell left right
  | .rightOnly => .selr left right
  | .mid => .mid left right
  | .side => .side left right

/-- The request of a mode, the right sample above the left one, is the mode's instruction (R39, R42). -/
theorem decode_mixerOp (mode : MixMode) (left right : Sample) :
    decode (mkRequest (mixerOp mode) (right ++ left)) = mixInstr mode left right := by
  have row : rowOf (mixerOp mode) = (mixInstr mode 0 0).row := by cases mode <;> decide
  rw [decode_mkRequest, row]
  cases mode <;> simp [mixInstr, Instr.row, instrOf]

/-- Every mode answers OK with its `select_or_combine` of the signed samples (R49). -/
theorem exec_mixInstr (mode : MixMode) (left right : Sample) (s : State) :
    exec (mixInstr mode left right) s = .next { s with
      pending := some (mkResponse statusOk (monoWord (selectOrCombine (sext16 left) (sext16 right) mode))) } := by
  cases mode <;> rfl

/-- The result word of a selected sample is its copy, under a zero upper half (R50, R51). -/
theorem monoWord_sext16 (t : Sample) : monoWord (sext16 t) = 0x0000#16 ++ t := by
  rw [monoWord, trunc16_sext16]

/-- Settles O5: the sample is sign-extended, selected and truncated again. -/
theorem sellCopiesLeftBitForBit : Obligations.SellCopiesLeftBitForBit := by
  intro left right s
  refine ⟨decode_mixerOp .leftOnly left right, ?_⟩
  rw [← monoWord_sext16]
  exact exec_mixInstr .leftOnly left right s

/-- Settles O6: the sample is sign-extended, selected and truncated again. -/
theorem selrCopiesRightBitForBit : Obligations.SelrCopiesRightBitForBit := by
  intro left right s
  refine ⟨decode_mixerOp .rightOnly left right, ?_⟩
  rw [← monoWord_sext16]
  exact exec_mixInstr .rightOnly left right s

/-! ### The range of the results -/

/-- The result of every mode on two integers of `[-m, m - 1]` is in that range, whatever `m` is (R55, R59): a sum or a
difference leaves it by at most a factor of two, which the floor half takes back. -/
theorem selectOrCombine_range {m left right : Int} (hl : -m ≤ left ∧ left ≤ m - 1)
    (hr : -m ≤ right ∧ right ≤ m - 1) (mode : MixMode) :
    -m ≤ selectOrCombine left right mode ∧ selectOrCombine left right mode ≤ m - 1 := by
  cases mode with
  | leftOnly => exact hl
  | rightOnly => exact hr
  | mid =>
    have half := fdiv2_bounds (left + right)
    simp only [selectOrCombine]; omega
  | side =>
    have half := fdiv2_bounds (left - right)
    simp only [selectOrCombine]; omega

/-- On two samples the result of every mode is in the samples' range (R55). -/
theorem selectOrCombine_sext16_range (left right : Sample) (mode : MixMode) :
    -32768 ≤ selectOrCombine (sext16 left) (sext16 right) mode ∧
      selectOrCombine (sext16 left) (sext16 right) mode ≤ 32767 :=
  selectOrCombine_range (m := 32768) (sext16_range left) (sext16_range right) mode

/-- Truncation loses nothing of a mode's result on two samples (R55). -/
theorem toInt_trunc16_selectOrCombine (left right : Sample) (mode : MixMode) :
    (trunc16 (selectOrCombine (sext16 left) (sext16 right) mode)).toInt
      = selectOrCombine (sext16 left) (sext16 right) mode :=
  sext16_trunc16 _ (selectOrCombine_sext16_range left right mode)

/-- The signed value of a word of 32 bits is in range (R59). -/
theorem toInt_range_32 (v : BitVec 32) : -2 ^ 31 ≤ v.toInt ∧ v.toInt ≤ 2 ^ 31 - 1 :=
  ⟨v.le_toInt, Int.le_sub_one_of_lt v.toInt_lt⟩

/-- Settles O19: the range law at `m = 2^15`, where neither `sat16` nor `trunc16` changes the result, and at
`m = 2^31`. -/
theorem mixerNeverOverflows : Obligations.MixerNeverOverflows := by
  intro mode
  refine ⟨fun left right => ?_, fun left right => ?_⟩
  · obtain ⟨lower, upper⟩ := selectOrCombine_sext16_range left right mode
    exact ⟨lower, upper, sat16_of_mem _ ⟨lower, upper⟩, toInt_trunc16_selectOrCombine left right mode⟩
  · exact selectOrCombine_range (toInt_range_32 left) (toInt_range_32 right) mode

/-- Settles O7: the half-sum is in range, so the truncated word still is the floor half. -/
theorem midAnswersFloorHalfSum : Obligations.MidAnswersFloorHalfSum := by
  intro left right s
  refine ⟨decode_mixerOp .mid left right, _, exec_mixInstr .mid left right s, ?_⟩
  rw [toInt_trunc16_selectOrCombine]
  exact fdiv2_bounds _

/-- Settles O8: the half-difference is in range, so the truncated word still is the floor half. -/
theorem sideAnswersFloorHalfDifference : Obligations.SideAnswersFloorHalfDifference := by
  intro left right s
  refine ⟨decode_mixerOp .side left right, _, exec_mixInstr .side left right s, ?_⟩
  rw [toInt_trunc16_selectOrCombine]
  exact fdiv2_bounds _

/-! ### What the responses hold of the pair -/

/-- The result word of a mode's request (R49). -/
theorem rspData_responseTo_mixerOp (mode : MixMode) (f : Data) :
    rspData (responseTo (mkRequest (mixerOp mode) f))
      = monoWord (selectOrCombine (sext16 (lowHalf f)) (sext16 (highHalf f)) mode) := by
  have answer : responseTo (mkRequest (mixerOp mode) f)
      = mkResponse statusOk (monoWord (selectOrCombine (sext16 (lowHalf f)) (sext16 (highHalf f)) mode)) := by
    refine responseTo_of_exec _ _ ?_
    rw [← exec_mixInstr, ← decode_mixerOp, append_halves]
  rw [answer, rspData_mkResponse]

/-- The signed sample that a mode's request is answered with (R49, R55). -/
theorem toInt_responseTo_mixerOp (mode : MixMode) (f : Data) :
    (lowHalf (rspData (responseTo (mkRequest (mixerOp mode) f)))).toInt
      = selectOrCombine (sext16 (lowHalf f)) (sext16 (highHalf f)) mode := by
  rw [rspData_responseTo_mixerOp, lowHalf_monoWord, toInt_trunc16_selectOrCombine]

/-- Settles O20: the sum and the difference of the pair have one parity, the remainder of both floor halves. -/
theorem midAndSideDetermineThePairUpToParity : Obligations.MidAndSideDetermineThePairUpToParity := by
  intro f left right p m d
  have hp : p = (left + right) % 2 := rfl
  have hm : m = (left + right) / 2 := toInt_responseTo_mixerOp .mid f
  have hd : d = (left - right) / 2 := toInt_responseTo_mixerOp .side f
  omega

/-- Settles O21: the selections are the two halves of the frame word. -/
theorem selectionsTogetherHoldTheFrame : Obligations.SelectionsTogetherHoldTheFrame := by
  intro f
  have right : lowHalf (rspData (responseTo (mkRequest 0x01#8 f))) = highHalf f :=
    BitVec.eq_of_toInt_eq (toInt_responseTo_mixerOp .rightOnly f)
  have left : lowHalf (rspData (responseTo (mkRequest 0x00#8 f))) = lowHalf f :=
    BitVec.eq_of_toInt_eq (toInt_responseTo_mixerOp .leftOnly f)
  rw [right, left, append_halves]

/-! ### Calls that make no request -/

/-- A call whose output the host computes itself writes it and is done, in the step of its start (R87, R90). -/
theorem startCall_write {p : TrailingPolicy} {c : Call} {out : List Byte} (s : State)
    (planned : planCall p c = .ok (.write out)) :
    startCall p c s = { s with accepted := [], delivered := [], host := .done, output := out } := by
  simp [startCall, planned]

/-- Settles O55: on the quiet port the host's move is the start of the call. -/
theorem callWithoutRequestsWritesItsOutput : Obligations.CallWithoutRequestsWritesItsOutput := by
  intro s c rest out hn hp ho hagenda planned
  rw [step_of_start (hostMove_call s c rest hagenda hn hp ho), startCall_write _ planned]

/-- The first `m` bytes of `m + n` bytes of a stream. -/
theorem take_streamBytes (stream : List Byte) (addr m n : Nat) :
    (streamBytes stream addr (m + n)).take m = streamBytes stream addr m := by
  simp [streamBytes, List.take_take]

/-- The bytes of a stream after the first `m` of `m + n`. -/
theorem drop_streamBytes (stream : List Byte) (addr m n : Nat) :
    (streamBytes stream addr (m + n)).drop m = streamBytes stream (addr + m) n := by
  simp [streamBytes, List.drop_take, List.drop_drop]

/-- The software path on frame `i` of 32-bit samples, by the words at the frame's two offsets (R59, R82). -/
theorem softwareMix_frame_32 (mode : MixMode) (input : List Byte) (i : Nat) :
    softwareMix mode 4 (frameBytesAt input 8 i) = leBytes 4 (BitVec.ofInt 32 (selectOrCombine
      (BitVec.ofNat 32 (memRead input (44 + i * 8) 4)).toInt
      (BitVec.ofNat 32 (memRead input (48 + i * 8) 4)).toInt mode)).toNat := by
  have left : (frameBytesAt input 8 i).take 4 = streamBytes input (44 + i * 8) 4 := take_streamBytes _ _ 4 4
  have right : (frameBytesAt input 8 i).drop 4 = streamBytes input (48 + i * 8) 4 := by
    rw [show 48 + i * 8 = 44 + i * 8 + 4 by omega]
    exact drop_streamBytes _ _ 4 4
  simp only [softwareMix, left, right, signedSample, memRead, Nat.reduceMul]

/-- `stereo_to_mono` on whole frames of 32-bit samples, with a mode that the tag names (R59, R82). -/
theorem planCall_stereoToMono_32 {p : TrailingPolicy} {input : List Byte} {h : Header} {tag : ModeTag}
    {mode : MixMode} (named : modeOfTag tag = some mode) (opened : openInput input = .ok h)
    (whole : h.dataSize % 8 = 0) (stereo : h.channelCount = 2) (depth : h.bitsPerSample = 32) :
    planCall p (.stereoToMono input tag) = .ok (.write (outputStream 1 h.sampleRate 32
      ((List.range (h.dataSize / 8)).flatMap fun i => softwareMix mode 4 (frameBytesAt input 8 i)))) := by
  simp [planCall, planStereoToMono, named, opened, bind, Except.bind, stereo, monoDepthRefused, depth,
    bytesPerSample, frameCount_of_whole p whole]

/-- `mono_pair_to_stereo` on two streams of one rate, one depth and one size in whole frames (R83). -/
theorem planCall_monoPairToStereo {p : TrailingPolicy} {leftIn rightIn : List Byte} {l r : Header}
    (openedLeft : openInput leftIn = .ok l) (openedRight : openInput rightIn = .ok r)
    (monoLeft : l.channelCount = 1) (monoRight : r.channelCount = 1) (rate : l.sampleRate = r.sampleRate)
    (depth : l.bitsPerSample = r.bitsPerSample) (size : l.dataSize = r.dataSize)
    (whole : l.dataSize % bytesPerSample l.bitsPerSample = 0) :
    planCall p (.monoPairToStereo leftIn rightIn) = .ok (.write (outputStream 2 l.sampleRate l.bitsPerSample
      ((List.range (l.dataSize / bytesPerSample l.bitsPerSample)).flatMap fun i =>
        frameBytesAt leftIn (bytesPerSample l.bitsPerSample) i
          ++ frameBytesAt rightIn (bytesPerSample l.bitsPerSample) i))) := by
  have equal : headerMismatch l r = none := by simp [headerMismatch, rate, depth, size]
  simp [planCall, planMonoPairToStereo, openedLeft, openedRight, bind, Except.bind, monoLeft, monoRight, equal,
    frameCount_of_whole p whole]

/-- Settles O54: the plan of each conversion, with the software path read off its frames. -/
theorem softwarePathsWriteTheWholeOutput : Obligations.SoftwarePathsWriteTheWholeOutput := by
  intro p input h opened left right
  refine ⟨fun whole stereo depth => ?_, fun other h' opened' mono mono' rate depth size whole => ?_⟩
  · have mixed (tag : ModeTag) (mode : MixMode) (named : modeOfTag tag = some mode) :
        planCall p (.stereoToMono input tag) = .ok (.write (outputStream 1 h.sampleRate 32
          ((List.range (h.dataSize / 8)).flatMap fun i =>
            leBytes 4 (BitVec.ofInt 32 (selectOrCombine (left i) (right i) mode)).toNat))) := by
      rw [planCall_stereoToMono_32 named opened whole stereo depth]
      simp only [softwareMix_frame_32, left, right]
    exact ⟨mixed 0x0#4 .leftOnly rfl, mixed 0x1#4 .rightOnly rfl, mixed 0x2#4 .mid rfl, mixed 0x3#4 .side rfl⟩
  · exact planCall_monoPairToStereo opened opened' mono mono' rate depth size whole

/-! ### The header of a written file -/

/-- What `read_header` reads of a header that `write_header` wrote; the fields that no check reads leave their low bits
(R77, R78; log 15). -/
def writtenHeader (c rate bits n : Nat) : Header where
  totalSize     := (36 + n) % 2 ^ 32
  audioFormat   := 1
  channelCount  := c
  sampleRate    := rate
  byteRate      := rate * (c * (bits / 8)) % 2 ^ 32
  blockAlign    := c * (bits / 8) % 2 ^ 16
  bitsPerSample := bits
  dataSize      := n

/-- Bytes beyond the first piece of a stream are bytes of the rest. -/
theorem streamBytes_append_of_le {front : List Byte} {addr : Nat} (beyond : front.length ≤ addr) (back : List Byte)
    (n : Nat) : streamBytes (front ++ back) addr n = streamBytes back (addr - front.length) n := by
  rw [streamBytes, streamBytes, List.drop_append, List.drop_eq_nil_of_le beyond, List.nil_append]

/-- The first piece of a stream. -/
theorem streamBytes_zero_append {front : List Byte} {n : Nat} (size : front.length = n) (back : List Byte) :
    streamBytes (front ++ back) 0 n = front :=
  streamBytes_split [] front back 0 n rfl size

/-- The fields of a written header stand at the offsets of R75. -/
theorem streamBytes_writeHeader (c rate bits n : Nat) (rest : List Byte) :
    let stream := writeHeader c rate bits n ++ rest
    streamBytes stream 0 4 = containerTag ∧ streamBytes stream 4 4 = leBytes 4 (36 + n) ∧
    streamBytes stream 8 4 = formTag ∧ streamBytes stream 12 4 = fmtId ∧
    streamBytes stream 16 4 = leBytes 4 16 ∧ streamBytes stream 20 2 = leBytes 2 1 ∧
    streamBytes stream 22 2 = leBytes 2 c ∧ streamBytes stream 24 4 = leBytes 4 rate ∧
    streamBytes stream 28 4 = leBytes 4 (byteRateOf c rate bits) ∧
    streamBytes stream 32 2 = leBytes 2 (blockAlignOf c bits) ∧ streamBytes stream 34 2 = leBytes 2 bits ∧
    streamBytes stream 36 4 = dataId ∧ streamBytes stream 40 4 = leBytes 4 n := by
  have tags : containerTag.length = 4 ∧ formTag.length = 4 ∧ fmtId.length = 4 ∧ dataId.length = 4 := by decide
  simp [writeHeader, streamBytes_append_of_le, streamBytes_zero_append, tags]

/-- A header whose values fit its fields reads back as it was written (R78). -/
theorem readHeader_writeHeader {c rate bits n : Nat} (hc : c < 2 ^ 16) (hrate : rate < 2 ^ 32) (hbits : bits < 2 ^ 16)
    (hn : n < 2 ^ 32) (rest : List Byte) :
    readHeader (writeHeader c rate bits n ++ rest) = .ok (writtenHeader c rate bits n) := by
  obtain ⟨tag, total, form, fmt, fmtSize, format, channels, sampleRate, byteRate, align, depth, data, size⟩ :=
    streamBytes_writeHeader c rate bits n rest
  norm_num at hc hrate hbits hn
  simp [readHeader, memRead, tag, total, form, fmt, fmtSize, format, channels, sampleRate, byteRate, align, depth,
    data, size, writtenHeader, byteRateOf, blockAlignOf, bytesPerSample, Nat.mod_eq_of_lt, hc, hrate, hbits, hn]

/-- A written file opens with the header it was written with (R77, R78). -/
theorem openInput_outputStream {c rate bits : Nat} {payload : List Byte} (hc : c < 2 ^ 16) (hrate : rate < 2 ^ 32)
    (hbits : bits < 2 ^ 16) (hsize : payload.length < 2 ^ 32) :
    openInput (outputStream c rate bits payload) = .ok (writtenHeader c rate bits payload.length) := by
  have whole : ¬(outputStream c rate bits payload).length < headerLength + payload.length := by simp [outputStream]
  rw [openInput, outputStream, readHeader_writeHeader hc hrate hbits hsize]
  exact if_neg whole

/-! ### The frames of a stream and their bytes -/

/-- Frame `i` of a written file is piece `i` of its payload (R28). -/
theorem frameBytesAt_outputStream (c rate bits : Nat) (payload : List Byte) (g i : Nat) :
    frameBytesAt (outputStream c rate bits payload) g i = streamBytes payload (i * g) g := by
  have header : (writeHeader c rate bits payload.length).length = headerLength := writeHeader_length ..
  rw [frameBytesAt, outputStream, streamBytes, streamBytes, ← header, List.drop_length_add_append]

/-- The first `n` pieces of `g` bytes of a stream, one after the other, are its first `n * g` bytes (R27). -/
theorem flatMap_range_streamBytes (stream : List Byte) (g n : Nat) :
    ((List.range n).flatMap fun i => streamBytes stream (i * g) g) = stream.take (n * g) := by
  induction n with
  | zero => simp
  | succ n ih =>
    rw [List.range_succ, List.flatMap_append, ih, Nat.succ_mul, List.take_add]
    simp [streamBytes]

/-- Only the low `8n` bits of a value are written in `n` bytes (R6). -/
theorem leBytes_mod (n v : Nat) : leBytes n (v % 256 ^ n) = leBytes n v := by
  simpa using leBytes_leNat (leBytes n v)

/-- In two bytes, only the low half of an operand word is written (R25, R39). -/
theorem leBytes_two_append (high low : Sample) : leBytes 2 (high ++ low : Data).toNat = leBytes 2 low.toNat := by
  have lowBits : (high ++ low : Data).toNat % 256 ^ 2 = low.toNat % 256 ^ 2 := by
    rw [toNat_append_eq_add]; exact Nat.mul_add_mod ..
  rw [← leBytes_mod, lowBits, leBytes_mod]

/-- The bytes of an operand word are those of its low half and then those of its high half (R25, R39). -/
theorem leBytes_four_append (high low : Sample) :
    leBytes 4 (high ++ low : Data).toNat = leBytes 2 low.toNat ++ leBytes 2 high.toNat := by
  have highBits : (high ++ low : Data).toNat / 256 / 256 = high.toNat := by
    rw [toNat_append_eq_add]; omega
  rw [← leBytes_two_append high low, ← highBits]
  rfl

/-- The operand word of frame `i` of a stream of four-byte frames (R26). -/
def frameData (stream : List Byte) (i : Nat) : Data := BitVec.ofNat 32 (leNat (frameBytesAt stream 4 i))

/-- A frame of four bytes is what is written of its operand word (R26). -/
theorem leBytes_frameData {stream : List Byte} {i : Nat} (size : (frameBytesAt stream 4 i).length = 4) :
    leBytes 4 (frameData stream i).toNat = frameBytesAt stream 4 i := by
  have word := toNat_ofNat_leNat (frameBytesAt stream 4 i)
  have bytes := leBytes_leNat (frameBytesAt stream 4 i)
  rw [size] at word bytes
  exact (congrArg (leBytes 4) word).trans bytes

/-! ### Splitting a file and merging its halves -/

/-- What `stereo_to_mono` drives the block with, on `n` whole frames of 16-bit samples (R82, R86). -/
def mixerRun (mode : MixMode) (input : List Byte) (n rate : Nat) : Run :=
  ⟨frameRequests (mixerOp mode) input n, 2, 1, rate, 16⟩

/-- The mono file that the block's responses to that run make (R86, R89). -/
def mixerOutput (mode : MixMode) (input : List Byte) (n rate : Nat) : List Byte :=
  (mixerRun mode input n rate).outputOf ((mixerRun mode input n rate).requests.map responseTo)

/-- The output of a mixer run over `n` frames opens as a mono stream of `n` 16-bit samples (R82, R86). -/
theorem openInput_mixerOutput (mode : MixMode) (input : List Byte) {n rate : Nat} (hrate : rate < 2 ^ 32)
    (hsize : n * 2 < 2 ^ 32) :
    openInput (mixerOutput mode input n rate) = .ok (writtenHeader 1 rate 16 (n * 2)) := by
  have size : (resultPayload 2 ((mixerRun mode input n rate).requests.map responseTo)).length = n * 2 := by
    rw [resultPayload, length_flatMap_of_length_eq fun _ => leBytes_length _ _]
    simp [mixerRun, frameRequests]
  rw [← size] at hsize ⊢
  exact openInput_outputStream (c := 1) (bits := 16) (by decide) hrate (by decide) hsize

/-- Sample `i` of that output is the low half of the response to frame `i` of the input (R81, R86, R89). -/
theorem frameBytesAt_mixerOutput (mode : MixMode) (input : List Byte) {n i : Nat} (hi : i < n) (rate : Nat) :
    frameBytesAt (mixerOutput mode input n rate) 2 i
      = leBytes 2 (rspData (responseTo (mkRequest (mixerOp mode) (frameData input i)))).toNat := by
  have inside : i < ((mixerRun mode input n rate).requests.map responseTo).length := by
    simpa [mixerRun, frameRequests] using hi
  rw [mixerOutput, Run.outputOf, frameBytesAt_outputStream]
  refine (responseBytesStandAtTheirFrame _ _ _ inside).trans ?_
  simp [mixerRun, frameRequests, frameData]

/-- Frame `i` of a stream is the sample that left-only selects of it and then the one that right-only selects (R58). -/
theorem frameBytesAt_selections {input : List Byte} {n i : Nat} (hi : i < n) (rate : Nat)
    (size : (frameBytesAt input 4 i).length = 4) :
    frameBytesAt (mixerOutput .leftOnly input n rate) 2 i ++ frameBytesAt (mixerOutput .rightOnly input n rate) 2 i
      = frameBytesAt input 4 i := by
  rw [frameBytesAt_mixerOutput _ _ hi, frameBytesAt_mixerOutput _ _ hi, rspData_responseTo_mixerOp,
    rspData_responseTo_mixerOp, selectOrCombine, selectOrCombine, monoWord_sext16, monoWord_sext16,
    leBytes_two_append, leBytes_two_append, ← leBytes_four_append, append_halves, leBytes_frameData size]

/-- Merging the two selections of a stream whose frames have four bytes gives its frames (R83). -/
theorem planCall_merge_selections {p : TrailingPolicy} {input : List Byte} {n rate : Nat} (hrate : rate < 2 ^ 32)
    (hsize : n * 2 < 2 ^ 32) (size : ∀ i < n, (frameBytesAt input 4 i).length = 4) :
    planCall p (.monoPairToStereo (mixerOutput .leftOnly input n rate) (mixerOutput .rightOnly input n rate))
      = .ok (.write (outputStream 2 rate 16 ((List.range n).flatMap fun i => frameBytesAt input 4 i))) := by
  have frames : ((List.range n).flatMap fun i => frameBytesAt (mixerOutput .leftOnly input n rate) 2 i
      ++ frameBytesAt (mixerOutput .rightOnly input n rate) 2 i)
      = (List.range n).flatMap fun i => frameBytesAt input 4 i :=
    List.flatMap_congr fun i hi =>
      have inside := List.mem_range.mp hi
      frameBytesAt_selections inside rate (size i inside)
  rw [planCall_monoPairToStereo (openInput_mixerOutput .leftOnly input hrate hsize)
    (openInput_mixerOutput .rightOnly input hrate hsize) rfl rfl rfl rfl rfl (by simp [writtenHeader, bytesPerSample]),
    ← frames]
  simp [writtenHeader, bytesPerSample]

/-- Settles O51: each split is a mixer run over the file's frames, and the merged frames are the payload. -/
theorem splitThenMergeReproducesTheFile : Obligations.SplitThenMergeReproducesTheFile := by
  intro p rate n payload hrate hlen hsize file
  have opened : openInput file = .ok (writtenHeader 2 rate 16 payload.length) :=
    openInput_outputStream (by decide) hrate (by decide) hsize
  have whole : payload.length % 4 = 0 := by omega
  have count : payload.length / 4 = n := by omega
  have split {tag : ModeTag} {mode : MixMode} (named : modeOfTag tag = some mode) :
      planCall p (.stereoToMono file tag) = .ok (.drive (mixerRun mode file n rate)) := by
    rw [← count]
    exact planCall_stereoToMono opened whole named rfl rfl
  have frame (i : Nat) : frameBytesAt file 4 i = streamBytes payload (i * 4) 4 := frameBytesAt_outputStream ..
  have frameSize (i : Nat) (hi : i < n) : (frameBytesAt file 4 i).length = 4 := by
    rw [frame, streamBytes, List.length_take, List.length_drop]
    omega
  have frames : ((List.range n).flatMap fun i => frameBytesAt file 4 i) = payload := by
    simp only [frame, flatMap_range_streamBytes]
    exact List.take_of_length_le (by omega)
  refine ⟨_, _, split rfl, split rfl, ?_⟩
  exact (planCall_merge_selections hrate (by omega) frameSize).trans (by rw [frames])

end Sys2Proof.Machine
end

section
/-! PROOFS for spec/41_stereo_to_mono_encoder.md: what PACK32 answers (R60), the mixer's results in it (R61), what it
keeps of a frame and which words it produces (R63). -/

namespace Sys2Proof.Machine

/-! ### The operation -/

/-- The request of PACK32, the right sample above the left one, is the instruction (R39, R42). -/
theorem decode_pack32 (left right : Sample) :
    decode (mkRequest 0x10#8 (right ++ left)) = .pack32 left right := by
  rw [decode_mkRequest, show rowOf 0x10#8 = .pack32 by decide]
  simp [instrOf]

/-- PACK32 answers OK with the coded word of the signed samples, and writes nothing else (R60). -/
theorem exec_pack32 (left right : Sample) (s : State) : exec (.pack32 left right) s
    = .next { s with pending := some (mkResponse statusOk (packPair (sext16 left) (sext16 right))) } := rfl

/-- Truncation loses nothing of the half-sum of two samples (R55). -/
theorem toInt_trunc16_halfSum (left right : Sample) :
    (trunc16 (fdiv2 (sext16 left + sext16 right))).toInt = fdiv2 (sext16 left + sext16 right) :=
  toInt_trunc16_selectOrCombine left right .mid

/-- Truncation loses nothing of the half-difference of two samples (R55). -/
theorem toInt_trunc16_halfDiff (left right : Sample) :
    (trunc16 (fdiv2 (sext16 left - sext16 right))).toInt = fdiv2 (sext16 left - sext16 right) :=
  toInt_trunc16_selectOrCombine left right .side

/-- Settles O9: both halves are in range, so the truncated words still are the floor halves. -/
theorem pack32AnswersFloorHalvesSideBySide : Obligations.Pack32AnswersFloorHalvesSideBySide := by
  intro left right s
  refine ⟨decode_pack32 left right, _, _, exec_pack32 left right s, ?_, ?_⟩
  · rw [toInt_trunc16_halfSum]
    exact fdiv2_bounds _
  · rw [toInt_trunc16_halfDiff]
    exact fdiv2_bounds _

/-- The coded word that PACK32 answers (R60). -/
theorem rspData_responseTo_pack32 (f : Data) : rspData (responseTo (mkRequest 0x10#8 f))
    = packPair (sext16 (lowHalf f)) (sext16 (highHalf f)) := by
  rw [responseTo_pack32, rspData_mkResponse]

/-- Settles O22: PACK32 places the words that MID and SIDE answer. -/
theorem packIsMidAboveSide : Obligations.PackIsMidAboveSide := by
  intro f
  rw [rspData_responseTo_pack32, packPair, highHalf_codedWord, lowHalf_codedWord]
  constructor
  · rw [responseTo_mid, rspData_mkResponse, lowHalf_monoWord]
  · rw [responseTo_side, rspData_mkResponse, lowHalf_monoWord]

/-! ### What is kept of a frame, and what is lost -/

/-- The floor halves of a sum and a difference give the right integer, and the left one less the parity of the sum;
these two give the floor halves (R57, R63). -/
theorem fdiv2_halves_iff (left right m d : Int) : fdiv2 (left + right) = m ∧ fdiv2 (left - right) = d ↔
    right = m - d ∧ left - (left + right) % 2 = m + d := by
  unfold fdiv2; omega

/-- A word is known by the signed values of its halves (R39, R40). -/
theorem eq_iff_toInt_halves (c c' : Data) :
    c = c' ↔ (highHalf c).toInt = (highHalf c').toInt ∧ (lowHalf c).toInt = (lowHalf c').toInt := by
  rw [BitVec.toInt_inj, BitVec.toInt_inj]
  refine ⟨by rintro rfl; exact ⟨rfl, rfl⟩, fun ⟨high, low⟩ => ?_⟩
  rw [← append_halves c, high, low, append_halves]

/-- The frames that PACK32 answers with a given coded word: right is mid less side, and left up to the parity of the
sum is mid plus side (R63). -/
theorem pack32_eq_iff (f c : Data) : rspData (responseTo (mkRequest 0x10#8 f)) = c ↔
    (highHalf f).toInt = (highHalf c).toInt - (lowHalf c).toInt ∧
    (lowHalf f).toInt - ((lowHalf f).toInt + (highHalf f).toInt) % 2
      = (highHalf c).toInt + (lowHalf c).toInt := by
  rw [rspData_responseTo_pack32, eq_iff_toInt_halves, packPair, highHalf_codedWord, lowHalf_codedWord,
    toInt_trunc16_halfSum, toInt_trunc16_halfDiff]
  exact fdiv2_halves_iff _ _ _ _

/-- Settles O23: the code of `g` fixes what a frame with that code has in common with `g`. -/
theorem packLosesExactlyTheParity : Obligations.PackLosesExactlyTheParity := by
  intro f g
  obtain ⟨right, left⟩ := (pack32_eq_iff g _).mp rfl
  rw [pack32_eq_iff f, ← right, ← left, BitVec.toInt_inj]

/-! ### The coded words that PACK32 produces -/

/-- Any two integers in the samples' range are the samples of a frame (R39). -/
theorem exists_frame {left right : Int} (hl : -32768 ≤ left ∧ left ≤ 32767) (hr : -32768 ≤ right ∧ right ≤ 32767) :
    ∃ f : Data, (lowHalf f).toInt = left ∧ (highHalf f).toInt = right := by
  refine ⟨frameWord left right, ?_, ?_⟩
  · rw [lowHalf_frameWord]
    exact sext16_trunc16 left hl
  · rw [highHalf_frameWord]
    exact sext16_trunc16 right hr

/-- A frame of the samples `m + d + p`, for a parity `p`, and `m - d` is answered with the word of `m` and `d`, so it
is enough that both are in range (R63). -/
theorem exists_pack32_eq {c : Data} {p : Int} (parity : p = 0 ∨ p = 1)
    (left : -32768 ≤ (highHalf c).toInt + (lowHalf c).toInt + p ∧
      (highHalf c).toInt + (lowHalf c).toInt + p ≤ 32767)
    (right : -32768 ≤ (highHalf c).toInt - (lowHalf c).toInt ∧ (highHalf c).toInt - (lowHalf c).toInt ≤ 32767) :
    ∃ f : Data, rspData (responseTo (mkRequest 0x10#8 f)) = c := by
  obtain ⟨f, hl, hr⟩ := exists_frame left right
  refine ⟨f, (pack32_eq_iff f c).mpr ⟨hr, ?_⟩⟩
  rw [hl, hr]
  omega

/-- Settles O24: a frame's right sample is `m - d`, and its left one `m + d` or, where the sum is odd, `m + d + 1`. -/
theorem imageOfPack : Obligations.ImageOfPack := by
  intro c
  constructor
  · intro ⟨f, code⟩ m d
    obtain ⟨right, left⟩ : (highHalf f).toInt = m - d ∧
      (lowHalf f).toInt - ((lowHalf f).toInt + (highHalf f).toInt) % 2 = m + d := (pack32_eq_iff f c).mp code
    have leftRange : -32768 ≤ (lowHalf f).toInt ∧ (lowHalf f).toInt ≤ 32767 := sext16_range (lowHalf f)
    have rightRange : -32768 ≤ (highHalf f).toInt ∧ (highHalf f).toInt ≤ 32767 := sext16_range (highHalf f)
    omega
  · rintro ⟨right, even | odd⟩
    · exact exists_pack32_eq (p := 0) (.inl rfl) (by rwa [Int.add_zero]) right
    · exact exists_pack32_eq (p := 1) (.inr rfl) odd right

end Sys2Proof.Machine
end

section
/-! PROOFS for spec/42_mono_to_stereo_decoder.md: what UNPACK32 answers (R66), when it clamps (R69, R72), and what it
makes of the words of PACK32 (R71). -/

namespace Sys2Proof.Machine

/-! ### The operation -/

/-- The request of UNPACK32, mid above side, is the instruction (R40, R42). -/
theorem decode_unpack32 (mid side : Sample) :
    decode (mkRequest 0x20#8 (mid ++ side)) = .unpack32 mid side := by
  rw [decode_mkRequest, show rowOf 0x20#8 = .unpack32 by decide]
  simp [instrOf]

/-- UNPACK32 answers OK with the frame of the unsigned mid and the signed side, and writes nothing else (R66). -/
theorem exec_unpack32 (mid side : Sample) (s : State) : exec (.unpack32 mid side) s
    = .next { s with pending := some (mkResponse statusOk (unpackWord (mid.toNat : Int) (sext16 side))) } := rfl

/-- Truncation loses nothing of a saturated integer (R8, R10). -/
theorem toInt_trunc16_sat16 (n : Int) : (trunc16 (sat16 n)).toInt = sat16 n :=
  sext16_trunc16 _ (sat16_range n)

/-- Settles O10: a saturated integer fits in a sample, and saturation is the clamp. -/
theorem unpack32AnswersSaturatedSumAndDifference : Obligations.Unpack32AnswersSaturatedSumAndDifference := by
  intro mid side s
  refine ⟨decode_unpack32 mid side, _, _, exec_unpack32 mid side s, ?_, ?_⟩
  · rw [toInt_trunc16_sat16]
    exact sat16_eq_clamp _
  · rw [toInt_trunc16_sat16]
    exact sat16_eq_clamp _

/-- The left sample that UNPACK32 answers with (R66). -/
theorem toInt_lowHalf_responseTo_unpack32 (c : Data) :
    (lowHalf (rspData (responseTo (mkRequest 0x20#8 c)))).toInt
      = sat16 ((highHalf c).toNat + (lowHalf c).toInt) := by
  rw [responseTo_unpack32, rspData_mkResponse, unpackWord, lowHalf_frameWord, toInt_trunc16_sat16, sext16]

/-- The right sample that UNPACK32 answers with (R66). -/
theorem toInt_highHalf_responseTo_unpack32 (c : Data) :
    (highHalf (rspData (responseTo (mkRequest 0x20#8 c)))).toInt
      = sat16 ((highHalf c).toNat - (lowHalf c).toInt) := by
  rw [responseTo_unpack32, rspData_mkResponse, unpackWord, highHalf_frameWord, toInt_trunc16_sat16, sext16]

/-! ### Which clamp fires -/

/-- `sext16_range` in the spelling of the statements, which name the signed value itself (R39). -/
theorem toInt_range (t : Sample) : -32768 ≤ t.toInt ∧ t.toInt ≤ 32767 := sext16_range t

/-- An integer from the upper bound on saturates to that bound (R10). -/
theorem sat16_of_ge {n : Int} (h : 32767 ≤ n) : sat16 n = 32767 := by
  rw [sat16_eq_clamp, min_eq_left h]
  rfl

/-- An integer that is not below the range is changed by `sat16` exactly above it (R10). -/
theorem sat16_ne_iff {n : Int} (lower : -32768 ≤ n) : sat16 n ≠ n ↔ n > 32767 := by
  constructor
  · intro changed
    by_contra! upper
    exact changed (sat16_of_mem n ⟨lower, upper⟩)
  · intro above
    rw [sat16_of_ge above.le]
    exact above.ne

/-- Settles O25: with an unsigned mid neither sum is below the range, so each is clamped exactly above it. -/
theorem onlyTheUpperClampFires : Obligations.OnlyTheUpperClampFires := by
  intro c mid side left right
  have hmid : 0 ≤ mid := Int.natCast_nonneg _
  have hside : -32768 ≤ side ∧ side ≤ 32767 := toInt_range (lowHalf c)
  have hleft : left = sat16 (mid + side) := toInt_lowHalf_responseTo_unpack32 c
  have hright : right = sat16 (mid - side) := toInt_highHalf_responseTo_unpack32 c
  have leftClamped : left ≠ mid + side ↔ mid + side > 32767 := by
    rw [hleft]; exact sat16_ne_iff (by omega)
  have rightClamped : right ≠ mid - side ↔ mid - side > 32767 := by
    rw [hright]; exact sat16_ne_iff (by omega)
  refine ⟨leftClamped, fun above => hleft.trans (sat16_of_ge above.le), rightClamped,
    fun above => hright.trans (sat16_of_ge above.le), ?_, ?_⟩
  · rw [leftClamped, rightClamped]
    omega
  · rw [leftClamped, rightClamped]
    omega

/-! ### The words of PACK32 -/

/-- The unsigned value of a sample is its signed value modulo `2^16` (R8, R9). -/
theorem toNat_eq_toInt_emod (t : Sample) : (t.toNat : Int) = t.toInt % 65536 := by
  rw [← toNat_trunc16, ← sext16, trunc16_sext16]

/-- Where the samples' sum is not negative, neither is mid, and the unsigned reading of its field gives the samples
back up to the parity (R71). -/
theorem unpack_sums_of_sum_nonneg {f c : Data} (code : rspData (responseTo (mkRequest 0x10#8 f)) = c)
    (sum : 0 ≤ (lowHalf f).toInt + (highHalf f).toInt) :
    (highHalf c).toNat + (lowHalf c).toInt = (lowHalf f).toInt - ((lowHalf f).toInt + (highHalf f).toInt) % 2 ∧
    (highHalf c).toNat - (lowHalf c).toInt = (highHalf f).toInt := by
  obtain ⟨right, left⟩ := (pack32_eq_iff f c).mp code
  have midRange := toInt_range (highHalf c)
  rw [toNat_eq_toInt_emod]
  omega

/-- Where the samples' sum is negative, so is mid, and the unsigned reading of its field takes both results to the
upper bound or above it (R71). -/
theorem unpack_sums_of_sum_neg {f c : Data} (code : rspData (responseTo (mkRequest 0x10#8 f)) = c)
    (sum : (lowHalf f).toInt + (highHalf f).toInt < 0) :
    32767 ≤ (highHalf c).toNat + (lowHalf c).toInt ∧ 32767 ≤ (highHalf c).toNat - (lowHalf c).toInt := by
  obtain ⟨right, left⟩ := (pack32_eq_iff f c).mp code
  have leftRange := toInt_range (lowHalf f)
  have rightRange := toInt_range (highHalf f)
  rw [toNat_eq_toInt_emod]
  omega

/-- The frame made of the code of a frame with a non-negative sum: the same one up to the parity (R71). -/
theorem unpack_pack_of_sum_nonneg (f : Data) (sum : 0 ≤ (lowHalf f).toInt + (highHalf f).toInt) :
    let out := rspData (responseTo (mkRequest 0x20#8 (rspData (responseTo (mkRequest 0x10#8 f)))))
    (lowHalf out).toInt = (lowHalf f).toInt - ((lowHalf f).toInt + (highHalf f).toInt) % 2 ∧
    (highHalf out).toInt = (highHalf f).toInt := by
  obtain ⟨plus, minus⟩ := unpack_sums_of_sum_nonneg rfl sum
  have leftRange := toInt_range (lowHalf f)
  have rightRange := toInt_range (highHalf f)
  intro out
  rw [toInt_lowHalf_responseTo_unpack32, toInt_highHalf_responseTo_unpack32, plus, minus]
  exact ⟨sat16_of_mem _ (by omega), sat16_of_mem _ rightRange⟩

/-- The frame made of the code of a frame with a negative sum: both samples are the upper bound (R71). -/
theorem unpack_pack_of_sum_neg (f : Data) (sum : (lowHalf f).toInt + (highHalf f).toInt < 0) :
    let out := rspData (responseTo (mkRequest 0x20#8 (rspData (responseTo (mkRequest 0x10#8 f)))))
    (lowHalf out).toInt = 32767 ∧ (highHalf out).toInt = 32767 := by
  obtain ⟨plus, minus⟩ := unpack_sums_of_sum_neg rfl sum
  intro out
  rw [toInt_lowHalf_responseTo_unpack32, toInt_highHalf_responseTo_unpack32]
  exact ⟨sat16_of_ge plus, sat16_of_ge minus⟩

/-- Settles O26: by the sign of the sum; a negative sum is not the one of two samples at the upper bound. -/
theorem packThenUnpackRoundTrip : Obligations.PackThenUnpackRoundTrip := by
  intro f left right p out
  have nonneg : 0 ≤ left + right → (lowHalf out).toInt = left - p ∧ (highHalf out).toInt = right :=
    unpack_pack_of_sum_nonneg f
  have neg : left + right < 0 → (lowHalf out).toInt = 32767 ∧ (highHalf out).toInt = 32767 :=
    unpack_pack_of_sum_neg f
  refine ⟨fun sum => (nonneg sum).imp_right BitVec.eq_of_toInt_eq, neg, ?_⟩
  rw [eq_iff_toInt_halves]
  obtain sum | sum := le_or_gt 0 (left + right)
  · obtain ⟨hl, hr⟩ := nonneg sum
    rw [hl, hr]
    omega
  · obtain ⟨hl, hr⟩ := neg sum
    rw [hl, hr]
    omega

end Sys2Proof.Machine
end

section
/-! PROOFS for spec/43_host_stream_converters.md: the written header (R78), the checks of the converters (R82 to R85,
R97), the partial last frame (R91), a call that fails a check (R87, R99), the output stream (R90) and a converter call
from its first frame to its last, also after a reset (R81, R88, R105). -/

namespace Sys2Proof.Machine

/-- Settles O48: the length is fixed, and the fields that fit read back (R77, R78). -/
theorem writtenHeaderReadsBack : Obligations.WrittenHeaderReadsBack :=
  fun c rate bits n rest hc hrate hbits hn =>
    ⟨writeHeader_length c rate bits n, readHeader_writeHeader hc hrate hbits hn rest⟩

/-! ### Steps that transfer nothing -/

/-- Settles O38: neither move asks for the response, and an edge without `rsp_ready` leaves it pending. -/
theorem waitingHostLosesNothing : Obligations.WaitingHostLosesNothing := by
  intro s rsp hp
  refine ⟨fun rest hagenda => ?_, fun hn hagenda => ?_⟩
  · rw [step_of_edge (hostMove_wait s rest hagenda)]
    exact clockEdge_false_of_pending (s := { s with agenda := rest }) hp
  · rw [step_of_edge (hostMove_nil s hn hagenda), clockEdge_false_of_pending hp]

/-- A call that fails a check has failed in the step of its start (R87, R99). -/
theorem startCall_error {p : TrailingPolicy} {c : Call} {e : HostError} (s : State)
    (refused : planCall p c = .error e) :
    startCall p c s = { s with accepted := [], delivered := [], host := .failed (.error e) } := by
  simp [startCall, refused]

/-- Settles O43: on the quiet port the host's move is the start of the call. -/
theorem failedCheckWritesNothing : Obligations.FailedCheckWritesNothing := by
  intro s c rest e hn hp ho hagenda refused
  rw [step_of_start (hostMove_call s c rest hagenda hn hp ho), startCall_error _ refused]

/-! ### What changes the output stream -/

/-- The host's move keeps the invariant (R88). -/
theorem State.Inv.hostMove {s : State} (inv : s.Inv) : (Machine.hostMove s).2.Inv := by
  obtain ⟨rest, _, hmove⟩ | ⟨c, rest, _, _, _, _, hmove⟩ | ⟨ready, rest, hmove⟩ | ⟨q, rest, _, hn, hmove⟩ |
    ⟨r, q, rest, hr, _, ho, hq, hmove⟩ := hostMove_cases s <;> rw [hmove]
  · exact inv.withAgenda rest
  · exact inv.withAgenda rest
  · exact inv.withAgenda rest
  · exact (inv.offer_of_not_running q hn).withAgenda rest
  · exact (inv.offer_of_running hr ho hq).withAgenda rest

/-- The host's move writes nothing: only the agenda and the port change (R88). -/
theorem hostMove_output (s : State) : (hostMove s).2.output = s.output := by
  obtain ⟨_, _, hmove⟩ | ⟨_, _, _, _, _, _, hmove⟩ | ⟨_, _, hmove⟩ | ⟨_, _, _, _, hmove⟩ |
    ⟨_, _, _, _, _, _, _, hmove⟩ := hostMove_cases s <;> rw [hmove]

/-- The start of a call writes only an output that needs no response, and then the call is done (R87, R90). -/
theorem startCall_output (p : TrailingPolicy) (c : Call) (s : State) : (startCall p c s).output = s.output ∨
    (startCall p c s).host = .done ∧ (startCall p c s).delivered = [] := by
  obtain ⟨e, _, h⟩ | ⟨out, _, h⟩ | ⟨r, _, _, h⟩ | ⟨r, _, _, h⟩ := startCall_cases p c s <;> rw [h]
  · exact .inl rfl
  · exact .inr ⟨rfl, rfl⟩
  · exact .inr ⟨rfl, rfl⟩
  · exact .inl rfl

/-- A delivery writes only where it ends a call, all of whose responses were OK (R87, R90). -/
theorem State.Inv.deliver_output {s : State} {rsp : Response} (inv : s.Inv) (hp : s.pending = some rsp) :
    (Machine.deliver rsp s).output = s.output ∨ (Machine.deliver rsp s).host = .done ∧
      ∀ d ∈ (Machine.deliver rsp s).delivered, rspStatus d = statusOk := by
  by_cases hr : ∃ r, s.host = .running r
  · obtain ⟨r, hr⟩ := hr
    have ok := inv.pending_ok hr hp
    obtain ⟨_, coherent, _⟩ := inv
    obtain ⟨_, _, noError, _⟩ := coherent r hr
    rw [deliver_of_running hr ok]
    split_ifs
    · exact .inr ⟨rfl, by simpa [or_imp, forall_and, ok] using noError⟩
    · exact .inl rfl
  · rw [deliver_of_not_running rsp s fun r h => hr ⟨r, h⟩]
    exact .inl rfl

/-- Settles O39: a reset writes nothing, the start of a call and a delivery only at the end of a call. -/
theorem outputChangesOnlyWhenACallIsDone : Obligations.OutputChangesOnlyWhenACallIsDone := by
  intro s t inv hstep changed
  have invMove := inv.hostMove
  rw [← hostMove_output s] at changed
  rcases hmove : hostMove s with ⟨_ | ready | c, u⟩ <;> rw [hmove] at changed invMove
  · cases (step_of_reset hmove).symm.trans hstep
    exact absurd rfl changed
  · rw [step_of_edge hmove] at hstep
    obtain ⟨q, _, _, hedge⟩ | ⟨rsp, hp, _, hedge⟩ | ⟨hedge, _, _⟩ := clockEdge_cases ready u
    · cases (hedge.trans (accept_eq q u)).symm.trans hstep
      exact absurd rfl changed
    · cases hedge.symm.trans hstep
      exact (invMove.deliver_output hp).resolve_left changed
    · cases hedge.symm.trans hstep
      exact absurd rfl changed
  · cases (step_of_start hmove).symm.trans hstep
    obtain ⟨done, empty⟩ := (startCall_output Config.trailingPolicy c u).resolve_left changed
    exact ⟨done, by simp [empty]⟩

/-! ### A converter call from frame to frame -/

/-- Call `r` before its frame `k`: the ports are quiet, and the frames before `k` have been asked for and answered
(R81, R88). -/
def Run.atFrame (r : Run) (k : Nat) (s : State) : State :=
  { s with
    pending := none, offered := none, agenda := [], accepted := r.requests.take k
    delivered := (r.requests.take k).map responseTo, host := .running r }

/-- Call `r` with the response to its frame `k` pending (R22). -/
def Run.awaiting (r : Run) (k : Nat) (s : State) : State :=
  { r.atFrame k s with
    pending := r.requests[k]?.map responseTo, accepted := r.requests.take (k + 1) }

/-- Call `r` at its end: every frame has been asked for and answered, and the output is written (R87, R90). -/
def Run.finished (r : Run) (s : State) : State :=
  { s with
    pending := none, offered := none, agenda := [], accepted := r.requests
    delivered := r.requests.map responseTo, host := .done, output := r.outputOf (r.requests.map responseTo) }

/-- On a free port, a host inside a call offers the frame after those accepted (R81, R88). -/
theorem serve_of_quiet {r : Run} {s : State} {q : Request} (hp : s.pending = none) (ho : s.offered = none)
    (hq : r.requests[s.accepted.length]? = some q) : serve r s = (.edge false, { s with offered := some q }) := by
  simp [serve, hp, ho, hq]

section Frames

variable {r : Run} {k : Nat} (inside : k < r.requests.length)

include inside

/-- The next step offers frame `k`, which is accepted at once (R22, R81). -/
theorem step_atFrame (s : State) : step (r.atFrame k s) = .next (r.awaiting k s) := by
  have next : r.requests[(r.atFrame k s).accepted.length]? = some r.requests[k] := by
    simp [Run.atFrame, inside.le, inside]
  have hmove := (hostMove_serve (r.atFrame k s) r rfl rfl).trans (serve_of_quiet rfl rfl next)
  rw [step_of_edge hmove, clockEdge_of_offered false rfl rfl, accept_eq]
  simp [Run.awaiting, Run.atFrame, recordAccepted, inside]

/-- The next step takes the response to frame `k`, which ends the call exactly when it is the last one (R88, R90). -/
theorem step_awaiting (ok : rspStatus (responseTo r.requests[k]) = statusOk) (s : State) :
    step (r.awaiting k s)
      = .next (if k + 1 = r.requests.length then r.finished s else r.atFrame (k + 1) s) := by
  have hp : (r.awaiting k s).pending = some (responseTo r.requests[k]) := by simp [Run.awaiting, inside]
  have hmove := (hostMove_serve (r.awaiting k s) r rfl rfl).trans (serve_of_pending r hp)
  have count : (r.awaiting k s).delivered.length = k := by simp [Run.awaiting, Run.atFrame, inside.le]
  have records : (r.awaiting k s).delivered ++ [responseTo r.requests[k]]
      = (r.requests.take (k + 1)).map responseTo := by
    rw [← List.take_append_getElem inside, List.map_append]
    rfl
  rw [step_of_edge hmove, clockEdge_true_of_pending hp, deliver_of_running rfl ok, count, records]
  split_ifs with last
  · have all : r.requests.take (k + 1) = r.requests := List.take_of_length_le last.ge
    simp [Run.awaiting, Run.atFrame, Run.finished, all]
  · rfl

end Frames

/-- A run begins with its first step. -/
theorem run_succ_of_step {s t : State} (h : step s = .next t) (n : Nat) :
    Host.Core.run Sys2Proof.core (n + 1) s = Host.Core.run Sys2Proof.core n t := by
  have first : Sys2Proof.core.step s = .next t := h
  simp only [Host.Core.run, first]

/-- From before a frame, a call that sees no error takes two steps for each frame that is left and is then finished
(R81, R90). -/
theorem run_atFrame {r : Run} (ok : ∀ q ∈ r.requests, rspStatus (responseTo q) = statusOk) (s : State)
    (left k : Nat) (count : k + (left + 1) = r.requests.length) :
    Host.Core.run Sys2Proof.core (2 * (left + 1)) (r.atFrame k s) = .next (r.finished s) := by
  have inside : k < r.requests.length := by omega
  have served := step_awaiting inside (ok _ (List.getElem_mem inside)) s
  rw [Nat.mul_succ, run_succ_of_step (step_atFrame inside s), run_succ_of_step served]
  cases left with
  | zero => rw [if_pos count]; rfl
  | succ left =>
    rw [if_neg (by omega)]
    exact run_atFrame ok s left (k + 1) (by omega)

/-- A call with at least one request and no error response finishes, from its first frame, in two steps for each
request (R81, R90). -/
theorem run_from_first_frame {r : Run} (nonempty : r.requests ≠ [])
    (ok : ∀ q ∈ r.requests, rspStatus (responseTo q) = statusOk) (s : State) :
    Host.Core.run Sys2Proof.core (2 * r.requests.length) (r.atFrame 0 s) = .next (r.finished s) := by
  obtain ⟨n, count⟩ := Nat.exists_eq_succ_of_ne_zero (List.length_eq_zero_iff.not.mpr nonempty)
  rw [count]
  exact run_atFrame ok s n 0 (by omega)

/-- Settles O42: the reset takes the call to its first frame (R88, R105), from which it finishes. -/
theorem resetRestartsTheCall : Obligations.ResetRestartsTheCall := by
  intro s r hr nonempty ok hagenda
  have restart : step s = .next (r.atFrame 0 s) := by
    rw [step_of_reset (hostMove_reset s [] hagenda)]
    simp [Run.atFrame, resetBlock, hr]
  rw [Nat.add_comm, run_succ_of_step restart]
  exact run_from_first_frame nonempty ok s

/-- A call that drives the block goes to its first frame, or writes its output at once if there is none (R90). -/
theorem startCall_drive {p : TrailingPolicy} {c : Call} {r : Run} (planned : planCall p c = .ok (.drive r))
    {s : State} (hp : s.pending = none) (ho : s.offered = none) :
    startCall p c { s with agenda := [] } = if r.requests = [] then r.finished s else r.atFrame 0 s := by
  by_cases empty : r.requests = []
  · simp [startCall, planned, Run.finished, empty, hp, ho]
  · simp [startCall, planned, Run.atFrame, empty, hp, ho]

/-- Settles O41: the start of the call takes it to its first frame, from which it finishes (R82: no request of a
converter is answered by an error). -/
theorem converterCallCompletes : Obligations.ConverterCallCompletes := by
  intro s c r hn hp ho hagenda planned
  have start := step_of_start (hostMove_call s c [] hagenda hn hp ho)
  rw [startCall_drive planned hp ho] at start
  have finish : Host.Core.run Sys2Proof.core (1 + 2 * r.requests.length) s = .next (r.finished s) := by
    rw [Nat.add_comm, run_succ_of_step start]
    split_ifs with empty
    · rw [empty]; rfl
    · exact run_from_first_frame empty (planCall_allLegal planned) s
  rw [finish, Run.finished, hp, ho]

/-! ### The checks of the converters -/

/-- A converter goes on with the header of an input that opens. -/
theorem openInput_bind {α : Type} {input : List Byte} {h : Header} (opened : openInput input = .ok h)
    (f : Header → Except HostError α) : openInput input >>= f = f h := by
  rw [opened]; rfl

/-- A tag of 4 to 15 is outside the four modes (R38, R43). -/
theorem modeOfTag_eq_none : ∀ tag : ModeTag, 4 ≤ tag.toNat → modeOfTag tag = none := by decide

theorem modeTag_cases : ∀ tag : ModeTag, tag.toNat < 4 → tag = 0x0#4 ∨ tag = 0x1#4 ∨ tag = 0x2#4 ∨ tag = 0x3#4 := by
  decide

/-- A tag below 4 names a mode: it is the low half of the mode's `OP`, and selects the mode's result (R38, R48). -/
theorem exists_modeOfTag {tag : ModeTag} (four : tag.toNat < 4) : ∃ mode, modeOfTag tag = some mode ∧
    mixerOp mode = 0x0#4 ++ tag ∧ ∀ left right : Int, selectOrCombine left right mode =
      if tag = 0x0#4 then left else if tag = 0x1#4 then right
      else if tag = 0x2#4 then fdiv2 (left + right) else fdiv2 (left - right) := by
  obtain rfl | rfl | rfl | rfl := modeTag_cases tag four
  · exact ⟨.leftOnly, rfl, rfl, fun _ _ => rfl⟩
  · exact ⟨.rightOnly, rfl, rfl, fun _ _ => rfl⟩
  · exact ⟨.mid, rfl, rfl, fun _ _ => rfl⟩
  · exact ⟨.side, rfl, rfl, fun _ _ => rfl⟩

/-- The mode is checked before the input is read (R97). -/
theorem planCall_stereoToMono_invalidMode (p : TrailingPolicy) (input : List Byte) {tag : ModeTag}
    (outside : modeOfTag tag = none) : planCall p (.stereoToMono input tag) = .error .invalidModeError := by
  simp only [planCall, planStereoToMono, outside]

section OneInput

variable {p : TrailingPolicy} {input : List Byte} {h : Header} (opened : openInput input = .ok h)

include opened

theorem planCall_stereoToMono_notStereo {tag : ModeTag} {mode : MixMode} (named : modeOfTag tag = some mode)
    (channels : h.channelCount ≠ 2) : planCall p (.stereoToMono input tag) = .error .notStereoError := by
  simp only [planCall, planStereoToMono, named]
  exact (openInput_bind opened _).trans (if_pos channels)

theorem planCall_stereoToCoded32_notStereo (channels : h.channelCount ≠ 2) :
    planCall p (.stereoToCoded32 input) = .error .notStereoError :=
  (openInput_bind opened _).trans (if_pos channels)

theorem planCall_stereoToCoded32_unsupported (stereo : h.channelCount = 2) (depth : h.bitsPerSample ≠ 16) :
    planCall p (.stereoToCoded32 input) = .error .unsupportedFormatError :=
  (openInput_bind opened _).trans ((if_neg (not_not.mpr stereo)).trans (if_pos depth))

theorem planCall_coded32ToStereo_notMono (channels : h.channelCount ≠ 1) :
    planCall p (.coded32ToStereo input) = .error .notMonoError :=
  (openInput_bind opened _).trans (if_pos channels)

theorem planCall_coded32ToStereo_unsupported (mono : h.channelCount = 1) (depth : h.bitsPerSample ≠ 32) :
    planCall p (.coded32ToStereo input) = .error .unsupportedFormatError :=
  (openInput_bind opened _).trans ((if_neg (not_not.mpr mono)).trans (if_pos depth))

end OneInput

section TwoInputs

variable {p : TrailingPolicy} {leftIn rightIn : List Byte} {l r : Header} (openedLeft : openInput leftIn = .ok l)
  (openedRight : openInput rightIn = .ok r)

include openedLeft openedRight

theorem planCall_monoPairToStereo_notMono (channels : l.channelCount ≠ 1 ∨ r.channelCount ≠ 1) :
    planCall p (.monoPairToStereo leftIn rightIn) = .error .notMonoError :=
  (openInput_bind openedLeft _).trans ((openInput_bind openedRight _).trans (if_pos channels))

/-- The headers are compared once both inputs are mono, before anything else is looked at (R83, R97). -/
theorem planCall_monoPairToStereo_mismatch (monoLeft : l.channelCount = 1) (monoRight : r.channelCount = 1)
    {field : MismatchField} (differ : headerMismatch l r = some field) :
    planCall p (.monoPairToStereo leftIn rightIn) = .error (.mismatchError field) := by
  refine (openInput_bind openedLeft _).trans ((openInput_bind openedRight _).trans ?_)
  simp only [monoLeft, monoRight, differ, ne_eq, not_true_eq_false, or_self, if_false]

end TwoInputs

/-- Settles O45: each converter's channel count is checked first, then its depth. -/
theorem convertersRejectTheWrongFormat : Obligations.ConvertersRejectTheWrongFormat := by
  intro p input
  refine ⟨fun tag outside => planCall_stereoToMono_invalidMode p input (modeOfTag_eq_none tag outside),
    fun h opened => ⟨fun channels => ⟨fun tag four => ?_, planCall_stereoToCoded32_notStereo opened channels⟩,
      planCall_stereoToCoded32_unsupported opened, fun channels => ⟨planCall_coded32ToStereo_notMono opened channels,
        fun other h' opened' => ⟨planCall_monoPairToStereo_notMono opened opened' (.inl channels),
          planCall_monoPairToStereo_notMono opened' opened (.inr channels)⟩⟩,
      planCall_coded32ToStereo_unsupported opened⟩⟩
  obtain ⟨mode, named, _⟩ := exists_modeOfTag four
  exact planCall_stereoToMono_notStereo opened named channels

/-- Settles O46: the comparison of the headers goes through the three fields in this order. -/
theorem monoPairMismatchIsNamed : Obligations.MonoPairMismatchIsNamed := by
  intro p a b h h' opened opened' mono mono'
  have mismatch {field : MismatchField} (differ : headerMismatch h h' = some field) :=
    planCall_monoPairToStereo_mismatch (p := p) opened opened' mono mono' differ
  refine ⟨fun rate => mismatch ?_, fun rate depth => mismatch ?_, fun rate depth size => mismatch ?_⟩
  · simp [headerMismatch, rate]
  · simp [headerMismatch, rate, depth]
  · simp [headerMismatch, rate, depth, size]

/-! ### The partial last frame -/

/-- Under `refuse`, a partial last frame is an error (R91). -/
theorem frameCount_refuse {size frameBytes : Nat} (partialFrame : size % frameBytes ≠ 0) :
    frameCount .refuse size frameBytes = .error .formatError := if_neg partialFrame

/-- Under `drop`, only the whole frames count (R91). -/
theorem frameCount_drop (size frameBytes : Nat) : frameCount .drop size frameBytes = .ok (size / frameBytes) :=
  ite_self _

/-- What a partial last frame makes of a call that reads the number of its frames and then goes on as `plan`: an error
under `refuse`, and the plan of the whole frames under `drop` (R91). -/
theorem planCall_partial {c : Call} {size frameBytes : Nat} {plan : Nat → Plan}
    (counted : ∀ p, planCall p c = frameCount p size frameBytes >>= fun n => .ok (plan n))
    (partialFrame : size % frameBytes ≠ 0) :
    planCall .refuse c = .error .formatError ∧ planCall .drop c = .ok (plan (size / frameBytes)) := by
  constructor
  · rw [counted, frameCount_refuse partialFrame]; rfl
  · rw [counted, frameCount_drop]; rfl

section Counted

variable (p : TrailingPolicy) {input : List Byte} {h : Header} (opened : openInput input = .ok h)

include opened

/-- `stereo_to_mono` at 16 bits drives the block with every frame that counts (R82). -/
theorem planCall_stereoToMono_counted {tag : ModeTag} {mode : MixMode} (named : modeOfTag tag = some mode)
    (stereo : h.channelCount = 2) (depth : h.bitsPerSample = 16) : planCall p (.stereoToMono input tag)
      = frameCount p h.dataSize 4 >>= fun n =>
        .ok (.drive ⟨frameRequests (mixerOp mode) input n, 2, 1, h.sampleRate, 16⟩) := by
  simp only [planCall, planStereoToMono, named]
  refine (openInput_bind opened _).trans ?_
  simp [stereo, monoDepthRefused, depth]

/-- `stereo_to_mono` at 32 bits computes every frame that counts in software (R59, R82). -/
theorem planCall_stereoToMono_32_counted {tag : ModeTag} {mode : MixMode} (named : modeOfTag tag = some mode)
    (stereo : h.channelCount = 2) (depth : h.bitsPerSample = 32) : planCall p (.stereoToMono input tag)
      = frameCount p h.dataSize 8 >>= fun n => .ok (.write (outputStream 1 h.sampleRate 32
        ((List.range n).flatMap fun i => softwareMix mode 4 (frameBytesAt input 8 i)))) := by
  simp only [planCall, planStereoToMono, named]
  refine (openInput_bind opened _).trans ?_
  simp [stereo, monoDepthRefused, depth, bytesPerSample]

/-- `stereo_to_coded32` drives the block with every frame that counts (R84). -/
theorem planCall_stereoToCoded32_counted (stereo : h.channelCount = 2) (depth : h.bitsPerSample = 16) :
    planCall p (.stereoToCoded32 input)
      = frameCount p h.dataSize 4 >>= fun n => .ok (.drive ⟨frameRequests 0x10#8 input n, 4, 1, h.sampleRate, 32⟩) :=
  (openInput_bind opened _).trans ((if_neg (not_not.mpr stereo)).trans (if_neg (not_not.mpr depth)))

/-- `coded32_to_stereo` drives the block with every frame that counts (R85). -/
theorem planCall_coded32ToStereo_counted (mono : h.channelCount = 1) (depth : h.bitsPerSample = 32) :
    planCall p (.coded32ToStereo input)
      = frameCount p h.dataSize 4 >>= fun n => .ok (.drive ⟨frameRequests 0x20#8 input n, 4, 2, h.sampleRate, 16⟩) :=
  (openInput_bind opened _).trans ((if_neg (not_not.mpr mono)).trans (if_neg (not_not.mpr depth)))

/-- `mono_pair_to_stereo` merges every frame that counts of two streams of one rate, depth and size (R83). -/
theorem planCall_monoPairToStereo_counted {other : List Byte} {h' : Header} (opened' : openInput other = .ok h')
    (mono : h.channelCount = 1) (mono' : h'.channelCount = 1) (equal : headerMismatch h h' = none) :
    planCall p (.monoPairToStereo input other)
      = frameCount p h.dataSize (bytesPerSample h.bitsPerSample) >>= fun n =>
        .ok (.write (outputStream 2 h.sampleRate h.bitsPerSample ((List.range n).flatMap fun i =>
          frameBytesAt input (bytesPerSample h.bitsPerSample) i
            ++ frameBytesAt other (bytesPerSample h.bitsPerSample) i))) := by
  refine (openInput_bind opened _).trans ((openInput_bind opened' _).trans ?_)
  simp only [mono, mono', equal, ne_eq, not_true_eq_false, or_self, if_false]

end Counted

/-- Settles O47: each converter reads the number of its frames after its other checks. -/
theorem partialFrameIsRefusedOrDropped : Obligations.PartialFrameIsRefusedOrDropped := by
  intro input h opened requests left right
  refine ⟨fun partialFrame stereo depth => ⟨fun tag four => ?_, ?_⟩, fun partialFrame mono depth => ?_,
    fun partialFrame stereo depth tag four => ?_, fun other h' opened' mono mono' rate depth size => ?_⟩
  · obtain ⟨mode, named, op, _⟩ := exists_modeOfTag four
    rw [← op]
    exact planCall_partial (planCall_stereoToMono_counted · opened named stereo depth) partialFrame
  · exact planCall_partial (planCall_stereoToCoded32_counted · opened stereo depth) partialFrame
  · exact planCall_partial (planCall_coded32ToStereo_counted · opened mono depth) partialFrame
  · obtain ⟨mode, named, _, select⟩ := exists_modeOfTag four
    simp only [← select, left, right, ← softwareMix_frame_32]
    exact planCall_partial (planCall_stereoToMono_32_counted · opened named stereo depth) partialFrame
  · intro b partialFrame
    have equal : headerMismatch h h' = none := by simp [headerMismatch, rate, depth, size]
    exact planCall_partial (planCall_monoPairToStereo_counted · opened opened' mono mono' equal) partialFrame

end Sys2Proof.Machine
end

section
/-! PROOFS for spec/60_exceptions.md: an error is not latched (R96). -/

namespace Sys2Proof.Machine

/-- On a quiet port, a request the host begins to offer is accepted at the same edge, outside a call (R22, R88). -/
theorem step_of_offer {s : State} {q : Request} {rest : List Event} (hn : ∀ r, s.host ≠ .running r)
    (hp : s.pending = none) (ho : s.offered = none) (hagenda : s.agenda = .offer q :: rest) :
    step s = .next { s with
      pending := some (responseTo q), offered := none, agenda := rest, accepted := s.accepted ++ [q] } := by
  rw [step_of_edge (hostMove_offer s q rest hagenda hn ho),
    clockEdge_of_offered (s := { s with offered := some q, agenda := rest }) false hp rfl, accept_eq]
  rfl

/-- Settles O37: the first step delivers the pending response, whatever its `STATUS`, and leaves the port quiet, so
the second accepts `q`. -/
theorem errorIsNotLatched : Obligations.ErrorIsNotLatched := by
  intro s rsp q hn hp ho hagenda
  obtain ⟨delivers, _⟩ := deliverExactlyWhenPending s
  have accepts := step_of_offer (s := { s with
    pending := none, agenda := [.offer q], delivered := s.delivered ++ [rsp] }) hn rfl ho rfl
  rw [run_succ_of_step (delivers rsp [.offer q] hn hagenda hp), run_succ_of_step accepts, ho]
  rfl

end Sys2Proof.Machine
end

section
/-! PROOFS for spec/70_reset_and_hazards.md: what an edge with `rst = 1` leaves of the state (R105, R110). -/

namespace Sys2Proof.Machine

/-- Settles O31: a reset at the head of the agenda comes before every other move, inside a call too, and the state the
statement writes out is `resetBlock` of the state with that entry struck off. -/
theorem resetLosesThePendingResponse : Obligations.ResetLosesThePendingResponse := by
  intro s rest hagenda
  exact step_of_reset (hostMove_reset s rest hagenda)

end Sys2Proof.Machine
end
